-- ==== Sys2Proof/Word.lean ====
section
/-! DEFINITION. The words of the block: bytes of the buffers and tables, and the 32-bit descriptor and
operand registers (spec/10_state.md R24, R25, R36). Every intermediate value is an unbounded natural
(spec/00_scope.md section 5, D2), so registers are read with `toNat`. -/

namespace Sys2Proof

/-- One byte of a buffer or of a constant table (R36, R37). -/
abbrev Byte := BitVec 8

/-- A descriptor register or coordinate: 32 bits, unsigned (R24, R25). -/
abbrev Word := BitVec 32

end Sys2Proof
end

