-- ==== Sys2Proof/Machine/HostMove.lean ====
section
/-! DEFINITION. The host's moves (spec/30_encoding.md R98) and the register map they name
(spec/10_state.md R24, R25). The host is outside the block; its moves are the block's input (log entry 6). -/

namespace Sys2Proof.Machine

/-- What a `GET` names (R98). -/
inductive Source where
  /-- a register by its number (R24, R25) -/
  | reg (number : BitVec 4)
  /-- the result buffer -/
  | dst
deriving DecidableEq, Repr

/-- What the host's last `GET` handed it (log entry 16). -/
inductive Reading where
  /-- no `GET` yet -/
  | nothing
  /-- a register's value -/
  | value (n : Nat)
  /-- the bytes of `DST`, index 0 first -/
  | bytes (bs : List Byte)
deriving DecidableEq, Repr

/-- One line of a program for the block (R98). -/
inductive HostMove where
  /-- `SET <register>, <value>` -/
  | set (number : BitVec 4) (value : Nat)
  /-- `LOAD SRC, <bytes>`: the host supplies `SRC` and `LEN` -/
  | load (bytes : List Byte)
  /-- `RUN <mnemonic>`: the host writes `CMD.OP` and starts the block -/
  | run (op : BitVec 4)
  /-- the start alone, with `CMD.OP` as it stands (R31; program P6's last line) -/
  | start
  /-- `GET <register or DST>` -/
  | get (source : Source)
deriving DecidableEq, Repr

/-- The width of each register the host writes, by number: the descriptor and `CMD.OP` (R25), the operand
registers (R24). Number 7 is no register and 12 to 15, the results, are the datapath's (R21). -/
def hostWriteWidth (number : BitVec 4) : Option Nat :=
  [some 32, some 32, some 32, some 5, some 32, some 32, some 4, none,
   some 32, some 32, some 3, some 8, none, none, none, none].getD number.toNat none

/-- The host writes of a call's arguments, in R97's order. -/
def setDescriptor (width height format tileMode swizzle pitch : Nat) : List HostMove :=
  [.set 0#4 width, .set 1#4 height, .set 2#4 format, .set 3#4 tileMode, .set 4#4 swizzle, .set 5#4 pitch]

/-- R98's pseudo-operation `swizzle(w,h,f,t,s,p,data)`; also `transform(..., toTiled)`. -/
def swizzleCall (width height format tileMode swizzle pitch : Nat) (data : List Byte) : List HostMove :=
  setDescriptor width height format tileMode swizzle pitch ++ [.load data, .run 12#4, .get .dst]

/-- R98's pseudo-operation `deswizzle(w,h,f,t,s,p,data)`; also `transform(..., toLinear)`. -/
def deswizzleCall (width height format tileMode swizzle pitch : Nat) (data : List Byte) : List HostMove :=
  setDescriptor width height format tileMode swizzle pitch ++ [.load data, .run 13#4, .get .dst]

end Sys2Proof.Machine
end

