-- ==== Sys2Proof/Syntax.lean ====
section
/-! DEFINITION. The instructions: one constructor for each row of spec/opcode_table.json. None has an
operand field (spec/30_encoding.md R87: there are no immediates); operands are registers. -/

namespace Sys2Proof

/-- The 16 values of format OP (`CMD.OP`, spec/30_encoding.md R88) and the 32 tile-mode codes of format TM
(`DESC.TILE_MODE`, R89). -/
inductive Instr where
  /-- `FMT.BPP`: OP 0, R111. -/
  | fmtBpp
  /-- `FMT.ISBC`: OP 1, R114. -/
  | fmtIsbc
  /-- `TM.FAMILY`: OP 2, R120. -/
  | tmFamily
  /-- `TM.THICK`: OP 3, R121. -/
  | tmThick
  /-- `TM.ASPECT`: OP 4, R122. -/
  | tmAspect
  /-- `TM.BSWE`: OP 5, R123. -/
  | tmBswe
  /-- `TM.BSWW`: OP 6, R126. -/
  | tmBsww
  /-- `PIX.IDX`: OP 7, R140. -/
  | pixIdx
  /-- `ADDR.LIN`: OP 8, R160. -/
  | addrLin
  /-- `ADDR.MICRO`: OP 9, R165. -/
  | addrMicro
  /-- `ADDR.MACRO`: OP 10, R175. -/
  | addrMacro
  /-- `MAP.ELEM`: OP 11, R210. -/
  | mapElem
  /-- `XFORM.SWZ`: OP 12, R223. -/
  | xformSwz
  /-- `XFORM.DSWZ`: OP 13, R224. -/
  | xformDswz
  /-- `OP.RESERVED14`: OP 14, R91. -/
  | opReserved14
  /-- `OP.RESERVED15`: OP 15, R91. -/
  | opReserved15
  /-- `TM0`: tile-mode code 0, family linear, R160, R216. -/
  | tm0
  /-- `TM1`: tile-mode code 1, family linear, R160, R216. -/
  | tm1
  /-- `TM2`: tile-mode code 2, family micro, R165, R216. -/
  | tm2
  /-- `TM3`: tile-mode code 3, family micro, R165, R216. -/
  | tm3
  /-- `TM4`: tile-mode code 4, family macro, R175, R216. -/
  | tm4
  /-- `TM5`: tile-mode code 5, family macro, R175, R216. -/
  | tm5
  /-- `TM6`: tile-mode code 6, family macro, R175, R216. -/
  | tm6
  /-- `TM7`: tile-mode code 7, family macro, R175, R216. -/
  | tm7
  /-- `TM8`: tile-mode code 8, family macro, R175, R216. -/
  | tm8
  /-- `TM9`: tile-mode code 9, family macro, R175, R216. -/
  | tm9
  /-- `TM10`: tile-mode code 10, family macro, R175, R216. -/
  | tm10
  /-- `TM11`: tile-mode code 11, family macro, R175, R216. -/
  | tm11
  /-- `TM12`: tile-mode code 12, family macro, R175, R216. -/
  | tm12
  /-- `TM13`: tile-mode code 13, family macro, R175, R216. -/
  | tm13
  /-- `TM14`: tile-mode code 14, family macro, R175, R216. -/
  | tm14
  /-- `TM15`: tile-mode code 15, family macro, R175, R216. -/
  | tm15
  /-- `TM16`: tile-mode code 16, family macro, R175, R216. -/
  | tm16
  /-- `TM17`: tile-mode code 17, family macro, R92, R216. -/
  | tm17
  /-- `TMR18`: tile-mode code 18, family macro, R93, R216. -/
  | tmr18
  /-- `TMR19`: tile-mode code 19, family macro, R93, R216. -/
  | tmr19
  /-- `TMR20`: tile-mode code 20, family macro, R93, R216. -/
  | tmr20
  /-- `TMR21`: tile-mode code 21, family macro, R93, R216. -/
  | tmr21
  /-- `TMR22`: tile-mode code 22, family macro, R93, R216. -/
  | tmr22
  /-- `TMR23`: tile-mode code 23, family macro, R93, R216. -/
  | tmr23
  /-- `TMR24`: tile-mode code 24, family macro, R93, R216. -/
  | tmr24
  /-- `TMR25`: tile-mode code 25, family macro, R93, R216. -/
  | tmr25
  /-- `TMR26`: tile-mode code 26, family macro, R93, R216. -/
  | tmr26
  /-- `TMR27`: tile-mode code 27, family macro, R93, R216. -/
  | tmr27
  /-- `TMR28`: tile-mode code 28, family macro, R93, R216. -/
  | tmr28
  /-- `TMR29`: tile-mode code 29, family macro, R93, R216. -/
  | tmr29
  /-- `TMR30`: tile-mode code 30, family macro, R93, R216. -/
  | tmr30
  /-- `TMR31`: tile-mode code 31, family macro, R93, R216. -/
  | tmr31
deriving DecidableEq, Repr

end Sys2Proof
end

