-- ==== Sys2Proof/WellFormed.lean ====
section
/-! DEFINITION. Well-formedness: of an instruction (does its row name an operation at all,
spec/30_encoding.md R91) and of a host move (does the register exist, may the host write it, does the value
fit; spec/10_state.md R24, R25). -/

namespace Sys2Proof

/-- `OP` 14 and 15 "name no operation" (R91); every other row does. No instruction has an operand to check
(R87). -/
def Instr.wf (i : Instr) : Bool := i != .opReserved14 && i != .opReserved15

/-- A `SET` names a register the host writes and a value of its width; a `GET` names a register that exists. -/
def Machine.HostMove.wf : Machine.HostMove → Bool
  | .set reg v => match Machine.hostWriteWidth reg with
    | some w => decide (v < 2 ^ w)
    | none => false
  | .get (.reg reg) => reg != 7#4
  | .get .dst => true
  | .load _ => true
  | .run _ => true
  | .start => true

end Sys2Proof
end

