-- ==== Sys2Proof/Decode.lean ====
section
/-! DEFINITION. The decoder, total on any word, and after it the encoder. Two encoded objects name an
instruction: format OP, 4 bits (spec/30_encoding.md R81), held in `CMD.OP`, and format TM, 5 bits (R82),
held in `DESC.TILE_MODE`. Both are one undivided field (R80, R96), so decoding is the row list of R88 or R89
read at the code. -/

namespace Sys2Proof

/-- Which encoded object a code is: R81's `OP` or R82's `TILE_MODE`. -/
inductive CodeSpace where
  /-- format OP, the operation select -/
  | op
  /-- format TM, the tile-mode code -/
  | tm
deriving DecidableEq, Repr

/-- Why a word is no instruction: it has a bit above the format's one field. -/
inductive DecodeError where
  /-- format OP has 4 bits (R81) -/
  | widerThanFourBits
  /-- format TM has 5 bits (R82) -/
  | widerThanFiveBits
deriving DecidableEq, Repr

/-- The length of each format in bits (R80). -/
def CodeSpace.width : CodeSpace → Nat
  | .op => 4
  | .tm => 5

/-- R88's rows in code order, 0 to 15. -/
def opRows : List Instr :=
  [.fmtBpp, .fmtIsbc, .tmFamily, .tmThick, .tmAspect, .tmBswe,
   .tmBsww, .pixIdx, .addrLin, .addrMicro, .addrMacro, .mapElem,
   .xformSwz, .xformDswz, .opReserved14, .opReserved15]

/-- R89's rows in code order, 0 to 31. -/
def tmRows : List Instr :=
  [.tm0, .tm1, .tm2, .tm3, .tm4, .tm5, .tm6, .tm7,
   .tm8, .tm9, .tm10, .tm11, .tm12, .tm13, .tm14, .tm15,
   .tm16, .tm17, .tmr18, .tmr19, .tmr20, .tmr21, .tmr22, .tmr23,
   .tmr24, .tmr25, .tmr26, .tmr27, .tmr28, .tmr29, .tmr30, .tmr31]

/-- The operation a value of `CMD.OP` names (R88, R91). Every 4-bit value is a row. -/
def decodeOp (c : BitVec 4) : Instr := opRows.getD c.toNat .opReserved15

/-- The row of a value of `DESC.TILE_MODE` (R89, R92, R93). Every 5-bit value is a row. -/
def decodeTm (c : BitVec 5) : Instr := tmRows.getD c.toNat .tmr31

/-- The decoder on any word. -/
def decode (space : CodeSpace) (w : Nat) : Except DecodeError Instr :=
  match space with
  | .op => if w < 16 then .ok (decodeOp (BitVec.ofNat 4 w)) else .error .widerThanFourBits
  | .tm => if w < 32 then .ok (decodeTm (BitVec.ofNat 5 w)) else .error .widerThanFiveBits

/-- The encoded object and the code of an instruction (R88, R89). -/
def encode : Instr → CodeSpace × Nat
  | .fmtBpp => (.op, 0)
  | .fmtIsbc => (.op, 1)
  | .tmFamily => (.op, 2)
  | .tmThick => (.op, 3)
  | .tmAspect => (.op, 4)
  | .tmBswe => (.op, 5)
  | .tmBsww => (.op, 6)
  | .pixIdx => (.op, 7)
  | .addrLin => (.op, 8)
  | .addrMicro => (.op, 9)
  | .addrMacro => (.op, 10)
  | .mapElem => (.op, 11)
  | .xformSwz => (.op, 12)
  | .xformDswz => (.op, 13)
  | .opReserved14 => (.op, 14)
  | .opReserved15 => (.op, 15)
  | .tm0 => (.tm, 0)
  | .tm1 => (.tm, 1)
  | .tm2 => (.tm, 2)
  | .tm3 => (.tm, 3)
  | .tm4 => (.tm, 4)
  | .tm5 => (.tm, 5)
  | .tm6 => (.tm, 6)
  | .tm7 => (.tm, 7)
  | .tm8 => (.tm, 8)
  | .tm9 => (.tm, 9)
  | .tm10 => (.tm, 10)
  | .tm11 => (.tm, 11)
  | .tm12 => (.tm, 12)
  | .tm13 => (.tm, 13)
  | .tm14 => (.tm, 14)
  | .tm15 => (.tm, 15)
  | .tm16 => (.tm, 16)
  | .tm17 => (.tm, 17)
  | .tmr18 => (.tm, 18)
  | .tmr19 => (.tm, 19)
  | .tmr20 => (.tm, 20)
  | .tmr21 => (.tm, 21)
  | .tmr22 => (.tm, 22)
  | .tmr23 => (.tm, 23)
  | .tmr24 => (.tm, 24)
  | .tmr25 => (.tm, 25)
  | .tmr26 => (.tm, 26)
  | .tmr27 => (.tm, 27)
  | .tmr28 => (.tm, 28)
  | .tmr29 => (.tm, 29)
  | .tmr30 => (.tm, 30)
  | .tmr31 => (.tm, 31)

/-- Which format a word of spec/opcode_table.json is in, and its code. The table's two formats overlap:
the words 0 to 15 are rows of both, so the number of bits decides where it can (4: OP, 5: TM), and a word of
whole bytes below 16 is read as OP (log entry 11). The table's rows OP 4 to OP 15 also list a field at the bit
with the row's own number (spec/98_reader.md: made by the reader, not the spec's); a word that differs from
the row's by that bit alone is still that row's. Any other bit above the formats is no instruction. -/
def tableCode (nbits w : Nat) : Option (CodeSpace × Nat) :=
  if nbits = 5 then (if w < 32 then some (.tm, w) else none)
  else if w < 16 then some (.op, w)
  else if nbits ≠ 4 ∧ w < 32 then some (.tm, w)
  else if w = w % 16 + 2 ^ (w % 16) then some (.op, w % 16)
  else none

/-- The instruction the decoder reads from a word numbered as spec/opcode_table.json numbers it. -/
def decodeTableWord (nbits w : Nat) : Option Instr :=
  match tableCode nbits w with
  | some (space, code) => (decode space code).toOption
  | none => none

end Sys2Proof
end

