-- ==== Sys2Proof/Config.lean ====
section
/-! DEFINITION. The configuration: the constants of this hardware profile (spec/00_scope.md R6, R7) and the
values the spec leaves open, as opaque constants that no proof can evaluate. -/

namespace Sys2Proof.Config

/-- Memory pipes (R6). -/
@[simp] abbrev numPipes : Nat := 2
/-- Memory banks (R6). -/
@[simp] abbrev numBanks : Nat := 4
/-- Pipe-interleave group size as a bit count (R6). -/
@[simp] abbrev groupBits : Nat := 8
/-- log2 of the pipes (R6). -/
@[simp] abbrev pipeBits : Nat := 1
/-- log2 of the banks (R6). -/
@[simp] abbrev bankBits : Nat := 2
/-- Read by `swapMax` only (R6, R131). -/
@[simp] abbrev rowSize : Nat := 2048
/-- Read by `swapTiles` (R6, R130). -/
@[simp] abbrev swapSize : Nat := 256
/-- The sample-split threshold (R6, R180). -/
@[simp] abbrev splitSize : Nat := 2048
/-- Bytes of one group (R7). -/
@[simp] abbrev groupSize : Nat := 256
/-- `groupSize - 1` (R7). -/
@[simp] abbrev groupMask : Nat := 255
/-- `bankBits + pipeBits` (R7). -/
@[simp] abbrev swizzleBits : Nat := 3

/-- The format table's byte 0 of each record, in units of 8 bits: an open parameter (R8, D7). Five bits in
units of 8 are exactly the multiples of 8 from 0 to 248 that R112 allows (log entry 4). -/
opaque fmtRomUnits : BitVec 6 → BitVec 5

/-- Bytes 1 to 3 of the records, unspecified and never read (R85, R112; log entry 4). -/
opaque fmtRomFlags : Nat → Byte

/-- An unspecified result, drawn by number (R135, R203; log entry 8). -/
opaque freeNat : Nat → Nat

/-- An unspecified operand register, drawn by number (R279; log entry 9). -/
opaque freeWord : Nat → Word

end Sys2Proof.Config
end

