-- ==== Sys2Proof/Machine/Tables.lean ====
section
/-! DEFINITION. The constant tables (spec/10_state.md R37): `BC_SET`, `SWAP_ORDER`, `ILV`, and the image of
`FMT_ROM` that the machine holds from power-up. No operation writes a table. -/

namespace Sys2Proof.Machine

/-- `BC_SET`, the ten block-compressed format codes (spec/40_format_metadata.md R115; the spec marks the values
as general knowledge, log entry 12). -/
def bcSet : List Word :=
  [0x031#32, 0x431#32, 0x032#32, 0x432#32, 0x033#32, 0x433#32, 0x034#32, 0x234#32, 0x035#32, 0x235#32]

/-- `SWAP_ORDER` (spec/45_macrotile_address.md R194). -/
def swapOrder : List Nat := [0, 1, 3, 2, 6, 7, 5, 4, 0, 0]

/-- The bpp classes of the interleaver (spec/42_pixel_interleaver.md R142). -/
inductive BppClass where
  | c8 | c16 | c32 | c64 | c128 | cdef
deriving DecidableEq, Repr

/-- Which coordinate an interleave entry reads (R144). -/
inductive Axis where
  | x | y
deriving DecidableEq, Repr

/-- `ILV` (spec/42_pixel_interleaver.md R144; the spec marks the tables as general knowledge, log entry 12):
entry `i` is the input bit that drives output bit `i`. -/
def ilv : BppClass → List (Axis × Nat)
  | .c8 => [(.x, 0), (.x, 1), (.x, 2), (.y, 1), (.y, 0), (.y, 2)]
  | .c16 => [(.x, 0), (.x, 1), (.x, 2), (.y, 0), (.y, 1), (.y, 2)]
  | .c32 => [(.x, 0), (.x, 1), (.y, 0), (.x, 2), (.y, 1), (.y, 2)]
  | .c64 => [(.x, 0), (.y, 0), (.x, 1), (.x, 2), (.y, 1), (.y, 2)]
  | .c128 => [(.y, 0), (.x, 0), (.x, 1), (.x, 2), (.y, 1), (.y, 2)]
  | .cdef => [(.x, 0), (.x, 1), (.y, 0), (.x, 2), (.y, 1), (.y, 2)]

/-- The byte of `FMT_ROM` at an index: byte 0 of a record is a multiple of 8, the other three are open
(spec/40_format_metadata.md R112; log entry 4). -/
def fmtRomByte (index : Nat) : Byte :=
  if index % 4 = 0 then BitVec.ofNat 8 (8 * (Config.fmtRomUnits (BitVec.ofNat 6 (index / 4))).toNat)
  else Config.fmtRomFlags index

/-- The cell of one index of a 256-byte table, none for a zero byte. -/
def romCell (byteAt : Nat → Byte) (index : Nat) : Option Host.Cell :=
  if byteAt index = 0#8 then none else some (index, byteAt index)

/-- A 256-byte table as a list of its non-zero bytes (R112: exactly 256 entries; an unlisted index reads 0). -/
def romImage (byteAt : Nat → Byte) : List Host.Cell := (List.range 256).filterMap (romCell byteAt)

end Sys2Proof.Machine
end

