-- ==== Sys2Proof/Machine/State.lean ====
section
/-! DEFINITION. The state: `Block`, every piece of changing state that spec/10_state.md R21 gives the block; beside it
the model's open parameter, which R40 says is no field of the block's state; and the model's own three fields.
The wires of R33 are no fields, and there is no flag, mode, interrupt bit or saved register (R22, R34,
spec/60_exceptions.md R251, R254). -/

namespace Sys2Proof.Machine

/-- A byte space: the bytes that are not zero, at strictly rising indices. An unlisted index reads as zero
(log entry 5). -/
abbrev Memory := List Host.Cell

/-- The open parameter of the model (spec/10_state.md R40, spec/40_format_metadata.md R112): configuration, apart from
the block's state, fixed by `State.resetWith` and written by no step (log entry 4). The constants of R6 and the other
tables are definitions of Config.lean and Tables.lean. -/
structure Parameters where
  /-- `FMT_ROM`, 256 bytes (R37) -/
  fmtRom : Memory
deriving DecidableEq, Repr

/-- The block's own state (R21). -/
structure Block where
  /-- `DESC.WIDTH`, register 0, in texels (R25, R26) -/
  descWidth : Word
  /-- `DESC.HEIGHT`, register 1, in texels (R25, R26) -/
  descHeight : Word
  /-- `DESC.FORMAT`, register 2 (R25, R27) -/
  descFormat : Word
  /-- `DESC.TILE_MODE`, register 3 (R25, R28) -/
  descTileMode : BitVec 5
  /-- `DESC.SWIZZLE`, register 4 (R25, R29) -/
  descSwizzle : Word
  /-- `DESC.PITCH`, register 5, in elements (R25, R26) -/
  descPitch : Word
  /-- `CMD.OP`, register 6 (R25, R31) -/
  cmdOp : BitVec 4
  /-- `OPR.X`, register 8 (R24) -/
  oprX : Word
  /-- `OPR.Y`, register 9 (R24) -/
  oprY : Word
  /-- `OPR.Z`, register 10 (R24) -/
  oprZ : BitVec 3
  /-- `OPR.BPP`, register 11 (R24) -/
  oprBpp : BitVec 8
  /-- `RES.VALUE`, register 12, unbounded (R24) -/
  resValue : Nat
  /-- `RES.TILED`, register 13, unbounded (R24) -/
  resTiled : Nat
  /-- `RES.LINEAR`, register 14, unbounded (R24) -/
  resLinear : Nat
  /-- `RES.ESIZE`, register 15, unbounded (R24) -/
  resEsize : Nat
  /-- `SCAN.Y` (R30) -/
  scanY : Word
  /-- `SCAN.X` (R30) -/
  scanX : Word
  /-- `SRC`, bytes 0 to `LEN - 1` (R36) -/
  src : Memory
  /-- `DST`, bytes 0 to `LEN - 1` (R36) -/
  dst : Memory
  /-- `LEN`, the length of both buffers (R36) -/
  len : Nat
  /-- bit `n`: the host has written register `n` since reset (R39, R270; log entry 20) -/
  written : BitVec 16
deriving DecidableEq, Repr

/-- The state of the model for a given parameter: the block's state and the model's own three fields. It is the state
of the machine `coreFor` (Machine/Parametric.lean). -/
structure BlockRun extends Block where
  /-- the MODEL's own: how many free values have been drawn (log entry 8) -/
  freeCount : Nat
  /-- the MODEL's own: the host's moves to come (log entry 6) -/
  host : List HostMove
  /-- the MODEL's own: what the host's last `GET` handed it (log entry 16) -/
  reading : Reading
deriving DecidableEq, Repr

/-- What a step is given: the parameter and the state. The host's interface fixes one argument for both. -/
structure State extends Parameters, BlockRun
deriving DecidableEq, Repr

/-- Why the machine stops without a next state. The block raises nothing (spec/60_exceptions.md R240). -/
inductive Fault where
  /-- Raised by TM.BSWW, ADDR.MACRO, MAP.ELEM, the bank-swapped tile-mode rows and a transform with an element
  to process, when the tile mode is bank-swap eligible, bpp > 0 and the pitch is 0: the halving loop never ends
  and the operation does not complete (spec/41_tile_mode_metadata.md R136, spec/60_exceptions.md R247). The model
  names the hang (log entry 7). Safe: nothing is provable of what would follow. -/
  | swapWidthNeverEnds
deriving DecidableEq, Repr

/-- Why there is no meaning. -/
inductive Refusal where
  /-- An instruction of the opcode table without a meaning; no arm answers it in this model. Safe. -/
  | notModelled (mnemonic : String)
  /-- A start with `CMD.OP` 14 or 15 (spec/30_encoding.md R91: refused, no step, no state change). Safe. -/
  | reservedOperation (op : BitVec 4)
  /-- A start of an operation that reads a register the host has not written since reset (spec/10_state.md R39, X9
  of spec/60_exceptions.md R241: refused, no step). Raised by the start, not by an instruction's meaning. Safe. -/
  | registerNeverWritten
  /-- A `SET` of a number that is no register the host writes (spec/10_state.md R21, R24, R25; log entry 16).
  Raised by the host move, not by an instruction. Safe. -/
  | noSuchHostWrite (number : BitVec 4)
  /-- A `SET` of a value wider than its register (R24, R25; log entry 16). Safe. -/
  | valueTooWide (number : BitVec 4) (value : Nat)
  /-- A `GET` of register number 7, which is no register (R24, R25; log entry 16). Safe. -/
  | noSuchRegister (number : BitVec 4)
deriving DecidableEq, Repr

/-- The block just reset (spec/70_reset_and_hazards.md R270): idle, no register written. The spec gives the registers
and buffers no value; the zeros are log entries 1 and 3. -/
def BlockRun.reset : BlockRun where
  descWidth := 0
  descHeight := 0
  descFormat := 0
  descTileMode := 0
  descSwizzle := 0
  descPitch := 0
  cmdOp := 0
  oprX := 0
  oprY := 0
  oprZ := 0
  oprBpp := 0
  resValue := 0
  resTiled := 0
  resLinear := 0
  resEsize := 0
  scanY := 0
  scanX := 0
  src := []
  dst := []
  len := 0
  written := 0
  freeCount := 0
  host := []
  reading := .nothing

/-- The block just reset, for the model's parameter (spec/10_state.md R40). -/
def State.resetWith (parameters : Parameters) : State where
  toParameters := parameters
  toBlockRun := BlockRun.reset

/-- The block just reset, with a table of which nothing but the shape of spec/40_format_metadata.md R112 is known
(log entry 4). -/
def State.reset : State := State.resetWith { fmtRom := romImage fmtRomByte }

end Sys2Proof.Machine
end

