-- ==== Sys2Proof/Machine/Ops.lean ====
section
/-! DEFINITION. The shared operations: bit fields and ceilings (spec/00_scope.md section 5), one byte of a
buffer, the element copy (section 6), and the three ways a calculation ends. The block takes no exception
and returns from none (spec/60_exceptions.md R251, R252), so there is no operation for either. -/

namespace Sys2Proof.Machine

/-- `v[hi:lo]` (spec/00_scope.md section 5). -/
def bitField (hi lo v : Nat) : Nat := (v >>> lo) % 2 ^ (hi - lo + 1)

/-- `cdiv8(a)`, the ceiling of `a / 8` (spec/00_scope.md section 5). -/
def cdiv8 (a : Nat) : Nat := (a + 7) / 8

/-- `MemRead(B, a, 1)`. -/
def Memory.read : Memory → Nat → Byte
  | [], _ => 0#8
  | (k, v) :: rest, a => if k = a then v else Memory.read rest a

/-- `MemWrite(B, a, 1, b)`, keeping the canonical form: a zero byte is unlisted. -/
def Memory.write : Memory → Nat → Byte → Memory
  | [], a, b => if b = 0#8 then [] else [(a, b)]
  | (k, v) :: rest, a, b =>
    if k < a then (k, v) :: Memory.write rest a b
    else if k = a then (if b = 0#8 then rest else (a, b) :: rest)
    else if b = 0#8 then (k, v) :: rest
    else (a, b) :: (k, v) :: rest

/-- The canonical form: indices strictly rising, no zero byte listed. -/
def Memory.wf : Memory → Bool
  | [] => true
  | (k, v) :: rest => v != 0#8 && rest.all (fun c => decide (k < c.1)) && Memory.wf rest

/-- Every listed index is below `n`: the buffer has `n` bytes (R36). -/
def Memory.below (n : Nat) (m : Memory) : Bool := m.all (fun c => decide (c.1 < n))

/-- The bytes of a list laid out from index `a` on. -/
def Memory.ofBytesFrom : Nat → List Byte → Memory
  | _, [] => []
  | a, b :: rest => if b = 0#8 then Memory.ofBytesFrom (a + 1) rest else (a, b) :: Memory.ofBytesFrom (a + 1) rest

/-- The bytes of a list, the first at index 0 (`LOAD SRC`, spec/30_encoding.md R98). -/
def Memory.ofBytes (bs : List Byte) : Memory := Memory.ofBytesFrom 0 bs

/-- The first `n` bytes, index 0 first (`GET DST`). -/
def Memory.toBytes (n : Nat) (m : Memory) : List Byte := (List.range n).map m.read

/-- The part of a buffer below index `n`. -/
def Memory.truncate (n : Nat) (m : Memory) : Memory := m.filter (fun c => decide (c.1 < n))

/-- Byte `i` of an element copy: copied if and only if both indices are below `LEN`, else skipped with nothing
signalled (spec/20_memory.md R54). -/
def copyByte (len : Nat) (src : Memory) (sa da i : Nat) (dst : Memory) : Memory :=
  if sa + i < len ∧ da + i < len then dst.write (da + i) (src.read (sa + i)) else dst

/-- `ElemCopy` (spec/00_scope.md section 6): bytes 0 to `n - 1` of an element in ascending order. -/
def elemCopy (len : Nat) (src : Memory) (sa da : Nat) : Nat → Memory → Memory
  | 0, dst => dst
  | n + 1, dst => copyByte len src sa da n (elemCopy len src sa da n dst)

/-- How a calculation ends. -/
inductive Calc where
  /-- with a value -/
  | value (n : Nat)
  /-- with an unspecified value, nothing raised (spec/41_tile_mode_metadata.md R135) -/
  | unspecified
  /-- never: the operation does not complete (R136) -/
  | neverEnds
deriving DecidableEq, Repr

/-- A function of the value; what is computed from an unspecified value is unspecified (R203). -/
def Calc.map (f : Nat → Nat) : Calc → Calc
  | .value n => .value (f n)
  | .unspecified => .unspecified
  | .neverEnds => .neverEnds

/-- Hand the result of a calculation to the register that `put` writes: its value, or a fresh free value where
the spec leaves the result unspecified (log entry 8); a calculation that never ends has no next state
(log entry 7). -/
def deliver (put : Nat → State → State) (c : Calc) (s : State) : Host.Outcome State Fault Refusal :=
  match c with
  | .value n => .next (put n s)
  | .unspecified => .next (put (Config.freeNat s.freeCount) { s with freeCount := s.freeCount + 1 })
  | .neverEnds => .fault .swapWidthNeverEnds

/-- `RES.VALUE <- n`, the result register of the unit operations (spec/30_encoding.md R88). -/
def State.setValue (n : Nat) (s : State) : State := { s with resValue := n }

/-- `RES.TILED`, `RES.LINEAR`, `RES.ESIZE`, the result registers of MAP.ELEM (R88). -/
def State.setMapped (linear esize tiled : Nat) (s : State) : State :=
  { s with resTiled := tiled, resLinear := linear, resEsize := esize }

/-- What the end of a transform leaves: `DST`, the scan counter where R30 stops it, and `OPR.X`, `OPR.Y`
unspecified (spec/70_reset_and_hazards.md R279; log entry 9). -/
def State.endTransform (dst : Memory) (y x : Nat) (s : State) : State :=
  { s with
    dst := dst
    scanY := BitVec.ofNat 32 y
    scanX := BitVec.ofNat 32 x
    oprX := Config.freeWord s.freeCount
    oprY := Config.freeWord (s.freeCount + 1)
    freeCount := s.freeCount + 2 }

end Sys2Proof.Machine
end

