-- ==== Sys2Proof/Machine/Operands.lean ====
section
/-! DEFINITION. Operand assembly (spec/30_encoding.md R87): how each operand is taken from the encoded objects
FMT (R83), ROMREC (R85) and SWZ (R84), and the wires of one request (spec/10_state.md R33). -/

namespace Sys2Proof.Machine

/-- `HWFMT = DESC.FORMAT[5:0]` (R83). -/
def hwfmt (format : Word) : Nat := bitField 5 0 format.toNat

/-- `FMTHI = DESC.FORMAT[31:6]` (R83): no meaning of its own. -/
def fmthi (format : Word) : Nat := bitField 31 6 format.toNat

/-- The ROM index of a format code: byte 0 of record `HWFMT` (R85, R87). -/
def romIndex (format : Word) : Nat := hwfmt format * 4

/-- `bitsPerPixel(formatCode)` (spec/40_format_metadata.md R111, R113): the byte, zero-extended. -/
def formatBpp (rom : Memory) (format : Word) : Nat := (rom.read (romIndex format)).toNat

/-- `isBlockCompressed(formatCode)` (R114): all 32 bits against `BC_SET`. -/
def isBlockCompressed (format : Word) : Bool := bcSet.contains format

/-- `pipeSwizzle = DESC.SWIZZLE[8]` (R84, R87). -/
def pipeSwizzleOf (swizzle : Word) : Nat := bitField 8 8 swizzle.toNat

/-- `bankSwizzle = DESC.SWIZZLE[10:9]` (R84, R87). -/
def bankSwizzleOf (swizzle : Word) : Nat := bitField 10 9 swizzle.toNat

/-- An extent after block-compressed scaling (spec/46_surface_mapper.md R212): a quarter, rounded down. -/
def effExtent (format : Word) (extent : Word) : Nat :=
  if isBlockCompressed format then extent.toNat / 4 else extent.toNat

/-- The wires of one request (spec/10_state.md R33): functions of the descriptor, constant while an operation
runs. -/
structure Plan where
  tileMode : BitVec 5
  bpp : Nat
  pitch : Nat
  effWidth : Nat
  effHeight : Nat
  elementSize : Nat
  pipeSwizzle : Nat
  bankSwizzle : Nat
deriving DecidableEq, Repr

/-- The wires under a tile-mode code (spec/46_surface_mapper.md R210, R212, R214, R215, R217, R218). -/
def planUnder (tm : BitVec 5) (s : State) : Plan where
  tileMode := tm
  bpp := formatBpp s.fmtRom s.descFormat
  pitch := s.descPitch.toNat
  effWidth := effExtent s.descFormat s.descWidth
  effHeight := effExtent s.descFormat s.descHeight
  elementSize := formatBpp s.fmtRom s.descFormat / 8
  pipeSwizzle := pipeSwizzleOf s.descSwizzle
  bankSwizzle := bankSwizzleOf s.descSwizzle

/-- The wires of the descriptor as it stands. -/
def planOf (s : State) : Plan := planUnder s.descTileMode s

end Sys2Proof.Machine
end

