-- ==== Sys2Proof/Machine/Format.lean ====
section
/-! DEFINITION. `format_metadata_rom` (spec/40_format_metadata.md): FMT.BPP and FMT.ISBC. -/

namespace Sys2Proof.Machine

/-- FMT.BPP (R111, R113). -/
def execFmtBpp (s : State) : Host.Outcome State Fault Refusal :=
  .next (s.setValue (formatBpp s.fmtRom s.descFormat))

/-- FMT.ISBC (R114). -/
def execFmtIsbc (s : State) : Host.Outcome State Fault Refusal :=
  .next (s.setValue (if isBlockCompressed s.descFormat then 1 else 0))

end Sys2Proof.Machine
end

