-- ==== Sys2Proof/Machine/Reserved.lean ====
section
/-! DEFINITION. The reserved operations (spec/30_encoding.md R91): a start is refused, it has no step and changes
no state. -/

namespace Sys2Proof.Machine

/-- `OP` 14 (R91). -/
def execOpReserved14 (_s : State) : Host.Outcome State Fault Refusal := .refused (.reservedOperation 14#4)

/-- `OP` 15 (R91). -/
def execOpReserved15 (_s : State) : Host.Outcome State Fault Refusal := .refused (.reservedOperation 15#4)

end Sys2Proof.Machine
end

