-- ==== Sys2Proof/Machine/TileMode.lean ====
section
/-! DEFINITION. `tile_mode_metadata` (spec/41_tile_mode_metadata.md): TM.FAMILY, TM.THICK, TM.ASPECT, TM.BSWE,
TM.BSWW. Every attribute is a membership test on the 5-bit code, with the sets of spec/30_encoding.md R90. -/

namespace Sys2Proof.Machine

/-- R90's `linear`. -/
def linearCodes : List (BitVec 5) := [0, 1]
/-- R90's `micro`. -/
def microCodes : List (BitVec 5) := [2, 3]
/-- R90's `thick4`. -/
def thick4Codes : List (BitVec 5) := [3, 7, 11, 13, 15]
/-- R90's `thick8`. -/
def thick8Codes : List (BitVec 5) := [16, 17]
/-- R90's `aspect2`. -/
def aspect2Codes : List (BitVec 5) := [5, 9]
/-- R90's `aspect4`. -/
def aspect4Codes : List (BitVec 5) := [6, 10]
/-- R90's `bankSwapped` (spec/90_conflicts.md C1: 15, not 16). -/
def bankSwappedCodes : List (BitVec 5) := [8, 9, 10, 11, 14, 15]
/-- R90's `thickMacro`. -/
def thickMacroCodes : List (BitVec 5) := [7, 11, 13, 15]
/-- R90's `rotationA`. -/
def rotationACodes : List (BitVec 5) := [4, 5, 6, 7, 8, 9, 10, 11]
/-- R90's `rotationB`. -/
def rotationBCodes : List (BitVec 5) := [12, 13, 14, 15]

/-- The family of a tile mode: 0 linear, 1 micro, 2 macro, reserved codes included (R120). -/
def family (tm : BitVec 5) : Nat :=
  if tm ∈ linearCodes then 0 else if tm ∈ microCodes then 1 else 2

/-- `Thickness(tileMode)` (R121). -/
def thickness (tm : BitVec 5) : Nat :=
  if tm ∈ thick4Codes then 4 else if tm ∈ thick8Codes then 8 else 1

/-- `AspectRatio(tileMode)` (R122). -/
def aspect (tm : BitVec 5) : Nat :=
  if tm ∈ aspect2Codes then 2 else if tm ∈ aspect4Codes then 4 else 1

/-- Bank-swap eligibility (R123). -/
def bankSwapEligible (tm : BitVec 5) : Bool := decide (tm ∈ bankSwappedCodes)

/-- `thickMacro(tm)` (R124). -/
def thickMacro (tm : BitVec 5) : Bool := decide (tm ∈ thickMacroCodes)

/-- The rotation classes (R125; spec/30_encoding.md R89). -/
inductive RotationClass where
  | a | b | none
deriving DecidableEq, Repr

/-- The rotation class of a code. It is recorded only: no formula of the block reads it (R125,
spec/45_macrotile_address.md R188). -/
def rotationClass (tm : BitVec 5) : RotationClass :=
  if tm ∈ rotationACodes then .a else if tm ∈ rotationBCodes then .b else .none

/-- `slicesPerTile` with its guard, `numSamples` still 1 (R127, R128). -/
def slicesPerTile (bpp : Nat) : Nat :=
  if 8 * bpp = 0 ∨ Config.splitSize / (8 * bpp) = 0 then 1
  else max 1 (1 / (Config.splitSize / (8 * bpp)))

/-- `numSamples` after the adjustment for thick macro-tiled modes (R128). -/
def swapSamples (tm : BitVec 5) : Nat := if thickMacro tm then 4 else 1

/-- `bytesPerTileSlice` (R129). -/
def bytesPerTileSlice (tm : BitVec 5) (bpp : Nat) : Nat := (swapSamples tm * (8 * bpp)) / slicesPerTile bpp

/-- `swapWidth` (R130). -/
def swapWidth (bpp : Nat) : Nat := max 1 ((Config.swapSize >>> 1) / bpp) * 8 * Config.numBanks

/-- `heightBytes` (R130). -/
def heightBytes (tm : BitVec 5) (bpp : Nat) : Nat :=
  (swapSamples tm * aspect tm * Config.numPipes * bpp) / slicesPerTile bpp

/-- `swapMax` (R131). -/
def swapMax (tm : BitVec 5) (bpp : Nat) : Nat :=
  (Config.numPipes * Config.numBanks * Config.rowSize) / heightBytes tm bpp

/-- `swapMin` (R132). -/
def swapMin (tm : BitVec 5) (bpp : Nat) : Nat :=
  (Config.groupSize * 8 * Config.numBanks) / bytesPerTileSlice tm bpp

/-- The bank-swap width before the adjustment to the pitch (R133, R137). -/
def clampedSwapWidth (tm : BitVec 5) (bpp : Nat) : Nat :=
  min (swapMax tm bpp) (max (swapMin tm bpp) (swapWidth bpp))

/-- "Halved repeatedly while ≥ 2*pitch" (R133), for a pitch of at least 1. The first argument bounds the number
of halvings; `w` itself is a bound that is never met (R134: the value strictly decreases). -/
def halveWhile : Nat → Nat → Nat → Nat
  | 0, _, w => w
  | fuel + 1, pitch, w => if 2 * pitch ≤ w then halveWhile fuel pitch (w >>> 1) else w

/-- `BankSwapWidth(tileMode, bpp, pitch)` (R126), with bpp 0 unspecified (R135) and, for bpp > 0, pitch 0 never
completing (R136). -/
def bankSwapWidth (tm : BitVec 5) (bpp pitch : Nat) : Calc :=
  if bankSwapEligible tm = false then .value 0
  else if bpp = 0 then .unspecified
  else if pitch = 0 then .neverEnds
  else .value (halveWhile (clampedSwapWidth tm bpp) pitch (clampedSwapWidth tm bpp))

/-- TM.FAMILY (R120). -/
def execTmFamily (s : State) : Host.Outcome State Fault Refusal := .next (s.setValue (family s.descTileMode))

/-- TM.THICK (R121). -/
def execTmThick (s : State) : Host.Outcome State Fault Refusal := .next (s.setValue (thickness s.descTileMode))

/-- TM.ASPECT (R122). -/
def execTmAspect (s : State) : Host.Outcome State Fault Refusal := .next (s.setValue (aspect s.descTileMode))

/-- TM.BSWE (R123). -/
def execTmBswe (s : State) : Host.Outcome State Fault Refusal :=
  .next (s.setValue (if bankSwapEligible s.descTileMode then 1 else 0))

/-- TM.BSWW (R126 to R136). -/
def execTmBsww (s : State) : Host.Outcome State Fault Refusal :=
  deliver State.setValue (bankSwapWidth s.descTileMode s.oprBpp.toNat s.descPitch.toNat) s

end Sys2Proof.Machine
end

