-- ==== Sys2Proof/Machine/Interleave.lean ====
section
/-! DEFINITION. `pixel_interleaver` (spec/42_pixel_interleaver.md): PIX.IDX. -/

namespace Sys2Proof.Machine

/-- `BppClass(bpp)` (R142). -/
def bppClass (bpp : Nat) : BppClass :=
  if bpp = 8 then .c8
  else if bpp = 16 then .c16
  else if bpp = 32 ∨ bpp = 96 then .c32
  else if bpp = 64 then .c64
  else if bpp = 128 then .c128
  else .cdef

/-- Bit `b` of the coordinate an entry of `ILV` names (R144). -/
def coordBit (x y : Nat) (entry : Axis × Nat) : Nat :=
  match entry.1 with
  | .x => bitField entry.2 entry.2 x
  | .y => bitField entry.2 entry.2 y

/-- The loop of R140 over the entries of a table, from output bit `i` on. -/
def interleave (x y : Nat) : Nat → List (Axis × Nat) → Nat
  | _, [] => 0
  | i, entry :: rest => (coordBit x y entry <<< i) ||| interleave x y (i + 1) rest

/-- The z bits of R141: output bits 6 and 7 when the thickness is above 1, bit 8 when it is 8. -/
def zBits (z : Nat) (tm : BitVec 5) : Nat :=
  (if 1 < thickness tm then (bitField 0 0 z <<< 6) ||| (bitField 1 1 z <<< 7) else 0)
    ||| (if thickness tm = 8 then bitField 2 2 z <<< 8 else 0)

/-- `index(x, y, bpp, tileMode, z)` (R140). -/
def pixelIndex (x y z bpp : Nat) (tm : BitVec 5) : Nat :=
  interleave x y 0 (ilv (bppClass bpp)) ||| zBits z tm

/-- PIX.IDX (R140). -/
def execPixIdx (s : State) : Host.Outcome State Fault Refusal :=
  .next (s.setValue
    (pixelIndex s.oprX.toNat s.oprY.toNat s.oprZ.toNat s.oprBpp.toNat s.descTileMode))

end Sys2Proof.Machine
end

