-- ==== Sys2Proof/Machine/Address.lean ====
section
/-! DEFINITION. `linear_address_calc` (spec/43_linear_address.md): ADDR.LIN, and `microtile_address_calc`
(spec/44_microtile_address.md): ADDR.MICRO. -/

namespace Sys2Proof.Machine

/-- The Linear Address Calculator (R160): the product in full before the division (R162). -/
def addrLinear (x y bpp pitch : Nat) : Nat := ((y * pitch + x) * bpp) / 8

/-- The micro-tile calculator's own thickness (R166, R174). -/
def microThickness (tm : BitVec 5) : Nat := if tm = 3#5 then 4 else 1

/-- `tileByteSize` (R167). -/
def microTileByteSize (bpp : Nat) (tm : BitVec 5) : Nat := cdiv8 (64 * microThickness tm * bpp)

/-- `tileIndex` (R168): tiles row-major, `pitch >> 3` to a row. -/
def microTileIndex (x y pitch : Nat) : Nat := (x >>> 3) + (y >>> 3) * (pitch >>> 3)

/-- The Micro-Tile Address Calculator (R165, R168 to R172). `height` is accepted and not used (R171). -/
def addrMicro (x y bpp pitch _height : Nat) (tm : BitVec 5) : Nat :=
  microTileByteSize bpp tm * microTileIndex x y pitch + (bpp * pixelIndex x y 0 bpp tm) / 8

/-- ADDR.LIN (R160). -/
def execAddrLin (s : State) : Host.Outcome State Fault Refusal :=
  .next (s.setValue (addrLinear s.oprX.toNat s.oprY.toNat s.oprBpp.toNat s.descPitch.toNat))

/-- ADDR.MICRO (R165, R174). -/
def execAddrMicro (s : State) : Host.Outcome State Fault Refusal :=
  .next (s.setValue (addrMicro s.oprX.toNat s.oprY.toNat s.oprBpp.toNat s.descPitch.toNat
    s.descHeight.toNat s.descTileMode))

end Sys2Proof.Machine
end

