-- ==== Sys2Proof/Machine/Macro.lean ====
section
/-! DEFINITION. `macrotile_address_calc` with `pipe_distribution`, `bank_rotation` and `bank_swap`
(spec/45_macrotile_address.md): ADDR.MACRO, one definition for each of R175's thirteen steps, and the fields of
its result (format TADDR, spec/30_encoding.md R86). -/

namespace Sys2Proof.Machine

/-- What step 4 leaves: `numSamples`, `sampleSlice` and the reduced `elemBits`. -/
structure SampleSplit where
  numSamples : Nat
  sampleSlice : Nat
  elemBits : Nat
deriving DecidableEq, Repr

/-- Step 4 (R180, R181). On the split branch `samplesPerSlice` is 0 and R181 takes `1 div 0` as 0 under the `max`,
which is the value of that quotient of naturals in Lean (log entry 13). -/
def sampleSplit (bpp t elemBits : Nat) : SampleSplit :=
  let microTileBits := bpp * t * 64
  let microTileBytes := cdiv8 microTileBits
  if microTileBytes ≤ Config.splitSize then { numSamples := 1, sampleSlice := 0, elemBits := elemBits }
  else
    let samplesPerSlice := Config.splitSize / microTileBytes
    let numSampleSplits := max 1 (1 / samplesPerSlice)
    let q := microTileBits / numSampleSplits
    { numSamples := samplesPerSlice, sampleSlice := elemBits / q, elemBits := elemBits % q }

/-- Step 6, the pipe before the swizzle (R184). -/
def pipeBefore (x y : Nat) : Nat := ((y >>> 3) ^^^ (x >>> 3)) &&& 1

/-- Step 7, bit 0 of the bank (R185). -/
def bankBit0 (x y : Nat) : Nat := ((y / (16 * Config.numPipes)) ^^^ (x >>> 3)) &&& 1

/-- Step 7, bit 1 of the bank (R185). -/
def bankBit1 (x y : Nat) : Nat := ((y / (8 * Config.numPipes)) ^^^ (x >>> 4)) &&& 1

/-- Step 7, the bank before the swizzle (R185). -/
def bankBefore (x y : Nat) : Nat := bankBit0 x y ||| (2 * bankBit1 x y)

/-- Step 8, `bankPipe` after the rotation and the swizzle (R186; spec/90_conflicts.md C9). -/
def rotateBankPipe (pipe bank sampleSlice pipeSwizzle bankSwizzle : Nat) : Nat :=
  ((pipe + Config.numPipes * bank)
      ^^^ ((Config.numPipes * sampleSlice * ((Config.numBanks >>> 1) + 1))
        ^^^ (pipeSwizzle + Config.numPipes * bankSwizzle)))
    % (Config.numPipes * Config.numBanks)

/-- Step 9, `sliceOffset` (R189). -/
def sliceOffset (height pitch t bpp numSamples sampleSlice : Nat) : Nat :=
  cdiv8 (height * pitch * t * bpp * numSamples) * (sampleSlice / t)

/-- Step 10, `macroTilePitch` (R190, R191). -/
def macroTilePitch (tm : BitVec 5) : Nat :=
  if tm ∈ aspect2Codes then 8 * Config.numBanks / 2
  else if tm ∈ aspect4Codes then 8 * Config.numBanks / 4
  else 8 * Config.numBanks

/-- Step 10, `macroTileHeight` (R190, R191). -/
def macroTileHeight (tm : BitVec 5) : Nat :=
  if tm ∈ aspect2Codes then 8 * Config.numPipes * 2
  else if tm ∈ aspect4Codes then 8 * Config.numPipes * 4
  else 8 * Config.numPipes

/-- Step 11, `macroTileOffset` (R192): macro-tiles row-major. -/
def macroTileOffset (x y bpp pitch t numSamples : Nat) (tm : BitVec 5) : Nat :=
  (x / macroTilePitch tm + (pitch / macroTilePitch tm) * (y / macroTileHeight tm))
    * cdiv8 (numSamples * t * bpp * macroTileHeight tm * macroTilePitch tm)

/-- Step 12, the bank after the swap for a bank-swap width `w` (R193, R194). -/
def swappedBank (x : Nat) (tm : BitVec 5) (bank w : Nat) : Nat :=
  bank ^^^ swapOrder.getD (((macroTilePitch tm * (x / macroTilePitch tm)) / w) &&& (Config.numBanks - 1)) 0

/-- Step 13, the address from its parts (R198). -/
def assembleAddress (bank pipe totalOffset : Nat) : Nat :=
  (bank <<< (Config.pipeBits + Config.groupBits)) ||| (pipe <<< Config.groupBits)
    ||| (totalOffset &&& Config.groupMask)
    ||| (((totalOffset >>> Config.groupBits) <<< Config.groupBits) <<< Config.swizzleBits)

/-- Steps 1 to 5, 9 to 11 and the sum of step 13: `totalOffset` (R177 to R183, R189 to R192, R197). -/
def macroTotalOffset (x y bpp pitch height : Nat) (tm : BitVec 5) : Nat :=
  let t := thickness tm
  let split := sampleSplit bpp t (bpp * pixelIndex x y 0 bpp tm)
  cdiv8 split.elemBits
    + ((macroTileOffset x y bpp pitch t split.numSamples tm
        + sliceOffset height pitch t bpp split.numSamples split.sampleSlice) >>> Config.swizzleBits)

/-- Steps 6 to 8: `bankPipe`, the pipe in bit 0 and the bank above it (R184 to R186). -/
def macroBankPipe (x y bpp : Nat) (tm : BitVec 5) (pipeSwizzle bankSwizzle : Nat) : Nat :=
  rotateBankPipe (pipeBefore x y) (bankBefore x y)
    (sampleSplit bpp (thickness tm) (bpp * pixelIndex x y 0 bpp tm)).sampleSlice pipeSwizzle bankSwizzle

/-- The Macro-Tile Address Calculator (R175). Only a bank-swap-eligible mode evaluates TM.BSWW (R193), and only
there can the result be unspecified (R203) or the calculation not end (R204). -/
def addrMacro (x y bpp pitch height : Nat) (tm : BitVec 5) (pipeSwizzle bankSwizzle : Nat) : Calc :=
  let bankPipe := macroBankPipe x y bpp tm pipeSwizzle bankSwizzle
  let pipe := bankPipe % Config.numPipes
  let bank := bankPipe / Config.numPipes
  let total := macroTotalOffset x y bpp pitch height tm
  if bankSwapEligible tm then
    (bankSwapWidth tm bpp pitch).map (fun w => assembleAddress (swappedBank x tm bank w) pipe total)
  else .value (assembleAddress bank pipe total)

/-- `TADDR[7:0]`, the byte inside a 256-byte group (R86; spec/20_memory.md R58). -/
def taddrOffsetLow (a : Nat) : Nat := bitField 7 0 a

/-- `TADDR[8]`, the pipe (R86). -/
def taddrPipe (a : Nat) : Nat := bitField 8 8 a

/-- `TADDR[10:9]`, the bank (R86). -/
def taddrBank (a : Nat) : Nat := bitField 10 9 a

/-- `TADDR[.. :11]`, the group number within the pipe and bank (R58, R86). -/
def taddrGroup (a : Nat) : Nat := a >>> 11

/-- ADDR.MACRO (R175, R203, R204, R206). -/
def execAddrMacro (s : State) : Host.Outcome State Fault Refusal :=
  deliver State.setValue
    (addrMacro s.oprX.toNat s.oprY.toNat s.oprBpp.toNat s.descPitch.toNat s.descHeight.toNat s.descTileMode
      (pipeSwizzleOf s.descSwizzle) (bankSwizzleOf s.descSwizzle)) s

end Sys2Proof.Machine
end

