-- ==== Sys2Proof/Machine/Mapper.lean ====
section
/-! DEFINITION. `tile_address_mapper`, the top level (spec/46_surface_mapper.md): MAP.ELEM, XFORM.SWZ,
XFORM.DSWZ. An operation is atomic as the host sees it (spec/20_memory.md R63), so a transform is one step. -/

namespace Sys2Proof.Machine

/-- The dispatch on the tile-mode code (R216, R217): exactly one calculator. -/
def tiledOffset (p : Plan) (x y : Nat) : Calc :=
  if p.tileMode ∈ linearCodes then .value (addrLinear x y p.bpp p.pitch)
  else if p.tileMode ∈ microCodes then .value (addrMicro x y p.bpp p.pitch p.effHeight p.tileMode)
  else addrMacro x y p.bpp p.pitch p.effHeight p.tileMode p.pipeSwizzle p.bankSwizzle

/-- `linearOffset` (R219; spec/20_memory.md R57): row-major with the width, not the pitch. -/
def linearOffset (p : Plan) (x y : Nat) : Nat := (y * p.effWidth + x) * p.elementSize

/-- The element mapping of R210 under a tile-mode code, at `(OPR.X, OPR.Y)`; the coordinates are not checked
(R220). -/
def mapElement (tm : BitVec 5) (s : State) : Host.Outcome State Fault Refusal :=
  let p := planUnder tm s
  deliver (State.setMapped (linearOffset p s.oprX.toNat s.oprY.toNat) p.elementSize)
    (tiledOffset p s.oprX.toNat s.oprY.toNat) s

/-- MAP.ELEM (R210). -/
def execMapElem (s : State) : Host.Outcome State Fault Refusal := mapElement s.descTileMode s

/-- The direction of a transform, part of the operation code (spec/10_state.md R40). -/
inductive Direction where
  /-- XFORM.SWZ: linear to tiled -/
  | toTiled
  /-- XFORM.DSWZ: tiled to linear -/
  | toLinear
deriving DecidableEq, Repr

/-- The scan counter as coordinates (spec/10_state.md R30). -/
structure Scan where
  y : Nat
  x : Nat
deriving DecidableEq, Repr

/-- R30's successor function, the only one. -/
def scanNext (effWidth : Nat) (c : Scan) : Scan :=
  if c.x + 1 < effWidth then { y := c.y, x := c.x + 1 } else { y := c.y + 1, x := 0 }

/-- Step 3e for one element (R221, R222): the copy between the two offsets in the order of the direction; none
where the address never completes (R136). An unspecified address occurs for bpp 0 only, where the element has
no byte and nothing is copied (R227). -/
def copyElement (dir : Direction) (p : Plan) (len : Nat) (src : Memory) (c : Scan) (dst : Memory) :
    Option Memory :=
  match tiledOffset p c.x c.y with
  | .value t => match dir with
    | .toTiled => some (elemCopy len src (linearOffset p c.x c.y) t p.elementSize dst)
    | .toLinear => some (elemCopy len src t (linearOffset p c.x c.y) p.elementSize dst)
  | .unspecified => some dst
  | .neverEnds => none

/-- The element loop of R223 and R224 for the next `n` elements from a scan position, in row-major order
(R30, R60). -/
def copyElements (dir : Direction) (p : Plan) (len : Nat) (src : Memory) : Nat → Scan → Memory → Option (Scan × Memory)
  | 0, c, dst => some (c, dst)
  | n + 1, c, dst =>
    match copyElement dir p len src c dst with
    | some dst' => copyElements dir p len src n (scanNext p.effWidth c) dst'
    | none => none

/-- A transform (R213, R223 to R228): `DST` zeroed, `SCAN` at (0, 0), then `effWidth * effHeight` elements; at
once when an extent is 0 (R226). It has no next state when an element's address never completes
(spec/60_exceptions.md R247). -/
def transform (dir : Direction) (s : State) : Host.Outcome State Fault Refusal :=
  let p := planOf s
  match copyElements dir p s.len s.src (p.effWidth * p.effHeight) { y := 0, x := 0 } [] with
  | some (c, dst) => .next (s.endTransform dst c.y c.x)
  | none => .fault .swapWidthNeverEnds

/-- XFORM.SWZ (R223). -/
def execXformSwz (s : State) : Host.Outcome State Fault Refusal := transform .toTiled s

/-- XFORM.DSWZ (R224). -/
def execXformDswz (s : State) : Host.Outcome State Fault Refusal := transform .toLinear s

end Sys2Proof.Machine
end

