-- ==== Sys2Proof/Machine/TileCodes.lean ====
section
/-! DEFINITION. The tile-mode rows (spec/30_encoding.md R89). "The tile-mode code is the block's true opcode:
it selects which calculator MAP.ELEM and the transforms run", so the effect of a row is MAP.ELEM's (R210,
R216) under that code: the element coordinate from `OPR.X` and `OPR.Y`, everything else from the descriptor
(log entry 10, DEDUCED). MAP.ELEM itself is the row that `DESC.TILE_MODE` names
(statement MapElemRunsTheTileModeRow). -/

namespace Sys2Proof.Machine

/-- TM0: linear family, ADDR.LIN. -/
def execTm0 (s : State) : Host.Outcome State Fault Refusal := mapElement 0#5 s

/-- TM1: linear family, ADDR.LIN. -/
def execTm1 (s : State) : Host.Outcome State Fault Refusal := mapElement 1#5 s

/-- TM2: micro family, ADDR.MICRO. -/
def execTm2 (s : State) : Host.Outcome State Fault Refusal := mapElement 2#5 s

/-- TM3: micro family, ADDR.MICRO. -/
def execTm3 (s : State) : Host.Outcome State Fault Refusal := mapElement 3#5 s

/-- TM4: macro family, ADDR.MACRO. -/
def execTm4 (s : State) : Host.Outcome State Fault Refusal := mapElement 4#5 s

/-- TM5: macro family, ADDR.MACRO. -/
def execTm5 (s : State) : Host.Outcome State Fault Refusal := mapElement 5#5 s

/-- TM6: macro family, ADDR.MACRO. -/
def execTm6 (s : State) : Host.Outcome State Fault Refusal := mapElement 6#5 s

/-- TM7: macro family, ADDR.MACRO. -/
def execTm7 (s : State) : Host.Outcome State Fault Refusal := mapElement 7#5 s

/-- TM8: macro family, ADDR.MACRO. -/
def execTm8 (s : State) : Host.Outcome State Fault Refusal := mapElement 8#5 s

/-- TM9: macro family, ADDR.MACRO. -/
def execTm9 (s : State) : Host.Outcome State Fault Refusal := mapElement 9#5 s

/-- TM10: macro family, ADDR.MACRO. -/
def execTm10 (s : State) : Host.Outcome State Fault Refusal := mapElement 10#5 s

/-- TM11: macro family, ADDR.MACRO. -/
def execTm11 (s : State) : Host.Outcome State Fault Refusal := mapElement 11#5 s

/-- TM12: macro family, ADDR.MACRO. -/
def execTm12 (s : State) : Host.Outcome State Fault Refusal := mapElement 12#5 s

/-- TM13: macro family, ADDR.MACRO. -/
def execTm13 (s : State) : Host.Outcome State Fault Refusal := mapElement 13#5 s

/-- TM14: macro family, ADDR.MACRO. -/
def execTm14 (s : State) : Host.Outcome State Fault Refusal := mapElement 14#5 s

/-- TM15: macro family, ADDR.MACRO. -/
def execTm15 (s : State) : Host.Outcome State Fault Refusal := mapElement 15#5 s

/-- TM16: macro family, ADDR.MACRO. -/
def execTm16 (s : State) : Host.Outcome State Fault Refusal := mapElement 16#5 s

/-- TM17: macro family, ADDR.MACRO (R92). -/
def execTm17 (s : State) : Host.Outcome State Fault Refusal := mapElement 17#5 s

/-- TMR18: macro family, ADDR.MACRO (R93). -/
def execTmr18 (s : State) : Host.Outcome State Fault Refusal := mapElement 18#5 s

/-- TMR19: macro family, ADDR.MACRO (R93). -/
def execTmr19 (s : State) : Host.Outcome State Fault Refusal := mapElement 19#5 s

/-- TMR20: macro family, ADDR.MACRO (R93). -/
def execTmr20 (s : State) : Host.Outcome State Fault Refusal := mapElement 20#5 s

/-- TMR21: macro family, ADDR.MACRO (R93). -/
def execTmr21 (s : State) : Host.Outcome State Fault Refusal := mapElement 21#5 s

/-- TMR22: macro family, ADDR.MACRO (R93). -/
def execTmr22 (s : State) : Host.Outcome State Fault Refusal := mapElement 22#5 s

/-- TMR23: macro family, ADDR.MACRO (R93). -/
def execTmr23 (s : State) : Host.Outcome State Fault Refusal := mapElement 23#5 s

/-- TMR24: macro family, ADDR.MACRO (R93). -/
def execTmr24 (s : State) : Host.Outcome State Fault Refusal := mapElement 24#5 s

/-- TMR25: macro family, ADDR.MACRO (R93). -/
def execTmr25 (s : State) : Host.Outcome State Fault Refusal := mapElement 25#5 s

/-- TMR26: macro family, ADDR.MACRO (R93). -/
def execTmr26 (s : State) : Host.Outcome State Fault Refusal := mapElement 26#5 s

/-- TMR27: macro family, ADDR.MACRO (R93). -/
def execTmr27 (s : State) : Host.Outcome State Fault Refusal := mapElement 27#5 s

/-- TMR28: macro family, ADDR.MACRO (R93). -/
def execTmr28 (s : State) : Host.Outcome State Fault Refusal := mapElement 28#5 s

/-- TMR29: macro family, ADDR.MACRO (R93). -/
def execTmr29 (s : State) : Host.Outcome State Fault Refusal := mapElement 29#5 s

/-- TMR30: macro family, ADDR.MACRO (R93). -/
def execTmr30 (s : State) : Host.Outcome State Fault Refusal := mapElement 30#5 s

/-- TMR31: macro family, ADDR.MACRO (R93). -/
def execTmr31 (s : State) : Host.Outcome State Fault Refusal := mapElement 31#5 s

end Sys2Proof.Machine
end

