-- ==== Sys2Proof/Machine/Dispatch.lean ====
section
/-! DEFINITION. `exec`: one arm for each row of spec/opcode_table.json, each a direct call of its meaning. -/

namespace Sys2Proof.Machine

def exec (i : Instr) (s : State) : Host.Outcome State Fault Refusal :=
  match i with
  | .fmtBpp => Sys2Proof.Machine.execFmtBpp s
  | .fmtIsbc => Sys2Proof.Machine.execFmtIsbc s
  | .tmFamily => Sys2Proof.Machine.execTmFamily s
  | .tmThick => Sys2Proof.Machine.execTmThick s
  | .tmAspect => Sys2Proof.Machine.execTmAspect s
  | .tmBswe => Sys2Proof.Machine.execTmBswe s
  | .tmBsww => Sys2Proof.Machine.execTmBsww s
  | .pixIdx => Sys2Proof.Machine.execPixIdx s
  | .addrLin => Sys2Proof.Machine.execAddrLin s
  | .addrMicro => Sys2Proof.Machine.execAddrMicro s
  | .addrMacro => Sys2Proof.Machine.execAddrMacro s
  | .mapElem => Sys2Proof.Machine.execMapElem s
  | .xformSwz => Sys2Proof.Machine.execXformSwz s
  | .xformDswz => Sys2Proof.Machine.execXformDswz s
  | .opReserved14 => Sys2Proof.Machine.execOpReserved14 s
  | .opReserved15 => Sys2Proof.Machine.execOpReserved15 s
  | .tm0 => Sys2Proof.Machine.execTm0 s
  | .tm1 => Sys2Proof.Machine.execTm1 s
  | .tm2 => Sys2Proof.Machine.execTm2 s
  | .tm3 => Sys2Proof.Machine.execTm3 s
  | .tm4 => Sys2Proof.Machine.execTm4 s
  | .tm5 => Sys2Proof.Machine.execTm5 s
  | .tm6 => Sys2Proof.Machine.execTm6 s
  | .tm7 => Sys2Proof.Machine.execTm7 s
  | .tm8 => Sys2Proof.Machine.execTm8 s
  | .tm9 => Sys2Proof.Machine.execTm9 s
  | .tm10 => Sys2Proof.Machine.execTm10 s
  | .tm11 => Sys2Proof.Machine.execTm11 s
  | .tm12 => Sys2Proof.Machine.execTm12 s
  | .tm13 => Sys2Proof.Machine.execTm13 s
  | .tm14 => Sys2Proof.Machine.execTm14 s
  | .tm15 => Sys2Proof.Machine.execTm15 s
  | .tm16 => Sys2Proof.Machine.execTm16 s
  | .tm17 => Sys2Proof.Machine.execTm17 s
  | .tmr18 => Sys2Proof.Machine.execTmr18 s
  | .tmr19 => Sys2Proof.Machine.execTmr19 s
  | .tmr20 => Sys2Proof.Machine.execTmr20 s
  | .tmr21 => Sys2Proof.Machine.execTmr21 s
  | .tmr22 => Sys2Proof.Machine.execTmr22 s
  | .tmr23 => Sys2Proof.Machine.execTmr23 s
  | .tmr24 => Sys2Proof.Machine.execTmr24 s
  | .tmr25 => Sys2Proof.Machine.execTmr25 s
  | .tmr26 => Sys2Proof.Machine.execTmr26 s
  | .tmr27 => Sys2Proof.Machine.execTmr27 s
  | .tmr28 => Sys2Proof.Machine.execTmr28 s
  | .tmr29 => Sys2Proof.Machine.execTmr29 s
  | .tmr30 => Sys2Proof.Machine.execTmr30 s
  | .tmr31 => Sys2Proof.Machine.execTmr31 s

end Sys2Proof.Machine
end

