-- ==== Sys2Proof/Machine/HostOps.lean ====
section
/-! DEFINITION. What a host move does to the block (spec/30_encoding.md R98, spec/60_exceptions.md R261): writes of
descriptor, command and operand registers, the load of `SRC`, and reads. -/

namespace Sys2Proof.Machine

/-- The value of a register by number (spec/10_state.md R24, R25); 7 is no register. -/
def readRegister (s : State) (number : BitVec 4) : Option Nat :=
  match number.toNat with
  | 0 => some s.descWidth.toNat
  | 1 => some s.descHeight.toNat
  | 2 => some s.descFormat.toNat
  | 3 => some s.descTileMode.toNat
  | 4 => some s.descSwizzle.toNat
  | 5 => some s.descPitch.toNat
  | 6 => some s.cmdOp.toNat
  | 8 => some s.oprX.toNat
  | 9 => some s.oprY.toNat
  | 10 => some s.oprZ.toNat
  | 11 => some s.oprBpp.toNat
  | 12 => some s.resValue
  | 13 => some s.resTiled
  | 14 => some s.resLinear
  | 15 => some s.resEsize
  | _ => none

/-- The register a number names takes a value that fits it; plain read/write storage (R25). -/
def writeRegister (s : State) (number : BitVec 4) (v : Nat) : State :=
  match number.toNat with
  | 0 => { s with descWidth := BitVec.ofNat 32 v }
  | 1 => { s with descHeight := BitVec.ofNat 32 v }
  | 2 => { s with descFormat := BitVec.ofNat 32 v }
  | 3 => { s with descTileMode := BitVec.ofNat 5 v }
  | 4 => { s with descSwizzle := BitVec.ofNat 32 v }
  | 5 => { s with descPitch := BitVec.ofNat 32 v }
  | 6 => { s with cmdOp := BitVec.ofNat 4 v }
  | 8 => { s with oprX := BitVec.ofNat 32 v }
  | 9 => { s with oprY := BitVec.ofNat 32 v }
  | 10 => { s with oprZ := BitVec.ofNat 3 v }
  | 11 => { s with oprBpp := BitVec.ofNat 8 v }
  | _ => s

/-- The host has written register `number` since reset (R39). -/
def markWritten (s : State) (number : BitVec 4) : State :=
  { s with written := s.written ||| (1#16 <<< number.toNat) }

/-- `SET <register>, <value>` (R98). -/
def hostSet (number : BitVec 4) (v : Nat) (s : State) : Host.Outcome State Fault Refusal :=
  match hostWriteWidth number with
  | none => .refused (.noSuchHostWrite number)
  | some w =>
    if v < 2 ^ w then .next (markWritten (writeRegister s number v) number)
    else .refused (.valueTooWide number v)

/-- `LOAD SRC, <bytes>` (R97, R98): `SRC` holds the bytes and `LEN` is their number; the result storage of the
new length keeps what it held below it (log entry 15). -/
def hostLoad (bytes : List Byte) (s : State) : State :=
  { s with src := Memory.ofBytes bytes, len := bytes.length, dst := s.dst.truncate bytes.length }

/-- `GET <register or DST>` (R98): the host is handed the value; the block is unchanged (R56). -/
def hostGet (source : Source) (s : State) : Host.Outcome State Fault Refusal :=
  match source with
  | .dst => .next { s with reading := .bytes (s.dst.toBytes s.len) }
  | .reg number =>
    match readRegister s number with
    | some v => .next { s with reading := .value v }
    | none => .refused (.noSuchRegister number)

end Sys2Proof.Machine
end

