-- ==== Sys2Proof/Machine/Start.lean ====
section
/-! DEFINITION. The start of an operation (spec/10_state.md R31): which registers it reads, the refusal where the host
never wrote one of them (R39, X9 of spec/60_exceptions.md R241), and the run of the operation. -/

namespace Sys2Proof.Machine

/-- The registers an operation reads, by number: the operands of spec/30_encoding.md R88, which R272 of
spec/70_reset_and_hazards.md has the host write. `SRC` and `LEN` have no number and no mark. A tile-mode row reads
what MAP.ELEM reads, its own code standing for `DESC.TILE_MODE` (log entry 10). -/
def operandRegisters : Instr → List (BitVec 4)
  | .fmtBpp | .fmtIsbc => [2]
  | .tmFamily | .tmThick | .tmAspect | .tmBswe => [3]
  | .tmBsww => [3, 11, 5]
  | .pixIdx => [8, 9, 10, 11, 3]
  | .addrLin => [8, 9, 11, 5]
  | .addrMicro => [8, 9, 11, 5, 1, 3]
  | .addrMacro => [8, 9, 11, 5, 1, 3, 4]
  | .mapElem => [8, 9, 0, 1, 2, 3, 4, 5]
  | .xformSwz | .xformDswz => [0, 1, 2, 3, 4, 5]
  | .opReserved14 | .opReserved15 => []
  | .tm0 | .tm1 | .tm2 | .tm3 | .tm4 | .tm5 | .tm6 | .tm7 | .tm8 | .tm9 | .tm10 | .tm11 | .tm12 | .tm13
  | .tm14 | .tm15 | .tm16 | .tm17 | .tmr18 | .tmr19 | .tmr20 | .tmr21 | .tmr22 | .tmr23 | .tmr24 | .tmr25
  | .tmr26 | .tmr27 | .tmr28 | .tmr29 | .tmr30 | .tmr31 => [8, 9, 0, 1, 2, 4, 5]

/-- The operands of R88 that the operation does not read on these operands: with a tile mode that is not eligible
TM.BSWW reads neither `OPR.BPP` nor `DESC.PITCH` (spec/41_tile_mode_metadata.md R126, first line;
spec/95_test_vectors.md section 2, corner vectors), and with thickness 1 PIX.IDX does not read `OPR.Z`
(spec/42_pixel_interleaver.md R141). That such a start is not refused for them, although R88 and R272 list them, is the
model's choice (DESIGN CHOICE, log entry 21). -/
def unreadOperands (i : Instr) (s : State) : List (BitVec 4) :=
  match i with
  | .tmBsww => if bankSwapEligible s.descTileMode then [] else [11, 5]
  | .pixIdx => if 1 < thickness s.descTileMode then [] else [10]
  | _ => []

/-- The registers a start reads: the operands that are read, and `CMD.OP`. That a bare start needs `CMD.OP` itself written is the
model's choice (DESIGN CHOICE, log entry 2): R39 of spec/10_state.md names `CMD.OP` among the registers whose
unwritten read is refused, and spec/30_encoding.md R88 lists it for no operation. -/
def startRegisters (i : Instr) (s : State) : List (BitVec 4) :=
  6#4 :: (operandRegisters i).filter (fun n => decide (n ∉ unreadOperands i s))

/-- The host has written register `number` since reset (spec/10_state.md R39). -/
def wasWritten (s : State) (number : BitVec 4) : Bool := s.written.getLsbD number.toNat

/-- The host has written every register that a start of the instruction reads (R39). -/
def hostWroteOperands (i : Instr) (s : State) : Bool := (startRegisters i s).all (wasWritten s)

/-- A start runs the operation `CMD.OP` names (R31), and is refused with no step where it would read a register
never written since reset (R39, X9 of spec/60_exceptions.md R241). -/
def startOperation (s : State) : Host.Outcome State Fault Refusal :=
  if hostWroteOperands (decodeOp s.cmdOp) s then exec (decodeOp s.cmdOp) s else .refused .registerNeverWritten

/-- The marks of a list of registers. -/
def marksOf (numbers : List (BitVec 4)) : BitVec 16 := numbers.foldr (fun n m => (1#16 <<< n.toNat) ||| m) 0#16

/-- The host has put an operation code in `CMD.OP`, written every operand of it, and is about to start it
(log entry 6). -/
def State.aboutToStart (s : State) (op : BitVec 4) : State :=
  { s with
    cmdOp := op
    written := s.written ||| marksOf (6#4 :: operandRegisters (decodeOp op))
    host := .start :: s.host }

end Sys2Proof.Machine
end

