-- ==== Sys2Proof/Machine/Step.lean ====
section
/-! DEFINITION. One step: the next host move, a start running one whole operation (spec/10_state.md R31,
spec/30_encoding.md R98, spec/20_memory.md R63) or being refused (spec/10_state.md R39). With no move to come the block is idle and holds its registers
(spec/60_exceptions.md R260). -/

namespace Sys2Proof.Machine

/-- One step of the machine (log entry 6). -/
def step (s : State) : Host.Outcome State Fault Refusal :=
  match s.host with
  | [] => .next s
  | .set number v :: rest => hostSet number v { s with host := rest }
  | .load bytes :: rest => .next (hostLoad bytes { s with host := rest })
  | .get source :: rest => hostGet source { s with host := rest }
  | .start :: rest => startOperation { s with host := rest }
  | .run op :: rest => startOperation (markWritten { s with host := rest, cmdOp := op } 6#4)

/-- The state whose very next step runs the instruction of a table word: an OP word stands in `CMD.OP`; a TM word
stands in `DESC.TILE_MODE`, with `CMD.OP` selecting MAP.ELEM, which runs that row; the registers the start reads count
as written by the host, whose next move is the start (log entries 6, 10, 11). A word of neither format changes
nothing. -/
def State.withFetchWord (s : State) (nbits w : Nat) : State :=
  match tableCode nbits w with
  | some (.op, code) => s.aboutToStart (BitVec.ofNat 4 code)
  | some (.tm, code) => State.aboutToStart { s with descTileMode := BitVec.ofNat 5 code } 11#4
  | none => s

end Sys2Proof.Machine
end

