-- ==== Sys2Proof/Machine/Parametric.lean ====
section
/-! DEFINITION. The model as spec/10_state.md R40 puts it: `FMT_ROM` an argument, and a state without a table. `step`
is the same machine with the two packed into the one argument that the host's interface fixes (log entry 4). -/

namespace Sys2Proof.Machine

/-- The meaning of an instruction for a given parameter, on a state without it (R40). -/
def execFor (p : Parameters) (i : Instr) (r : BlockRun) : Host.Outcome BlockRun Fault Refusal :=
  match exec i { toParameters := p, toBlockRun := r } with
  | .next t => .next t.toBlockRun
  | .fault f => .fault f
  | .refused q => .refused q

/-- One step of the machine for a given parameter, on a state without it (R40). -/
def stepFor (p : Parameters) (r : BlockRun) : Host.Outcome BlockRun Fault Refusal :=
  match step { toParameters := p, toBlockRun := r } with
  | .next t => .next t.toBlockRun
  | .fault f => .fault f
  | .refused q => .refused q

/-- The machine of a given parameter: "the model takes `FMT_ROM` as an argument" (spec/40_format_metadata.md R112). -/
def coreFor (p : Parameters) : Host.Core :=
  { State := BlockRun, Fault := Fault, Refusal := Refusal, step := stepFor p, reset := BlockRun.reset }

end Sys2Proof.Machine
end

