-- ==== Sys2Proof/Safety.lean ====
section
/-! DEFINITION. What counts as a safe run: the invariant of the plain data, the requests that never complete
(spec/60_exceptions.md R247), and well-formed requests (spec/70_reset_and_hazards.md R282). -/

namespace Sys2Proof.Machine

/-- The format table's shape (spec/40_format_metadata.md R112): canonical, 256 entries, byte 0 of each record a
multiple of 8. -/
def fmtRomWf (rom : Memory) : Bool :=
  rom.wf && rom.below 256 && rom.all (fun c => decide (c.1 % 4 = 0 → c.2.toNat % 8 = 0))

/-- The invariant: both buffers canonical and of `LEN` bytes (spec/10_state.md R36), the format table as R112
says. -/
def State.wf (s : State) : Bool :=
  s.src.wf && s.src.below s.len && s.dst.wf && s.dst.below s.len && fmtRomWf s.fmtRom

/-- The operands on which a bank-swap width never comes out (spec/41_tile_mode_metadata.md R136). -/
def swapWidthHangs (tm : BitVec 5) (bpp pitch : Nat) : Prop :=
  bankSwapEligible tm = true ∧ 0 < bpp ∧ pitch = 0

/-- The operands on which a bank-swap width is unspecified (R135). -/
def swapWidthUnspecified (tm : BitVec 5) (bpp : Nat) : Prop :=
  bankSwapEligible tm = true ∧ bpp = 0

/-- Coordinates inside the extent of a request. -/
def Plan.inside (p : Plan) (x y : Nat) : Prop := x < p.effWidth ∧ y < p.effHeight

/-- A well-formed request to a transform (spec/70_reset_and_hazards.md R282), conditions 1 to 5 in order. -/
structure WellFormedRequest (s : State) : Prop where
  bppMultiple : 0 < (planOf s).bpp ∧ (planOf s).bpp % 8 = 0
  rangesInside : ∀ x y, (planOf s).inside x y → ∃ t, tiledOffset (planOf s) x y = .value t
    ∧ t + (planOf s).elementSize ≤ s.len
    ∧ linearOffset (planOf s) x y + (planOf s).elementSize ≤ s.len
  rangesDisjoint : ∀ x y x' y' t t', (planOf s).inside x y → (planOf s).inside x' y' → (x, y) ≠ (x', y') →
    tiledOffset (planOf s) x y = .value t → tiledOffset (planOf s) x' y' = .value t' →
    t + (planOf s).elementSize ≤ t' ∨ t' + (planOf s).elementSize ≤ t
  pitchPositive : bankSwapEligible s.descTileMode = true → 1 ≤ s.descPitch.toNat
  notSplit : 4 ≤ s.descTileMode.toNat → (planOf s).bpp * thickness s.descTileMode ≤ 256

end Sys2Proof.Machine
end

