-- ==== Sys2Proof/Certificates/Slice0/Obligations.lean ====
section
/-! DEFINITION. The statements for the provers. The expected values are written with quotients, remainders and
sums of naturals (spec/00_scope.md section 5), apart from the model's own bit operations. -/

namespace Sys2Proof.Expected

/-- `v[b]` as a number. -/
def bit (v b : Nat) : Nat := v / 2 ^ b % 2

/-- Six output bits, bit 0 first. -/
def sixBits (a b c d e f : Nat) : Nat := a + 2 * b + 4 * c + 8 * d + 16 * e + 32 * f

/-- The pixel index of spec/42_pixel_interleaver.md R140 to R144, for thickness `t`. -/
def pixel (x y z bpp t : Nat) : Nat :=
  (if bpp = 8 then sixBits (bit x 0) (bit x 1) (bit x 2) (bit y 1) (bit y 0) (bit y 2)
   else if bpp = 16 then sixBits (bit x 0) (bit x 1) (bit x 2) (bit y 0) (bit y 1) (bit y 2)
   else if bpp = 64 then sixBits (bit x 0) (bit y 0) (bit x 1) (bit x 2) (bit y 1) (bit y 2)
   else if bpp = 128 then sixBits (bit y 0) (bit x 0) (bit x 1) (bit x 2) (bit y 1) (bit y 2)
   else sixBits (bit x 0) (bit x 1) (bit y 0) (bit x 2) (bit y 1) (bit y 2))
  + (if 1 < t then 64 * bit z 0 + 128 * bit z 1 else 0)
  + (if t = 8 then 256 * bit z 2 else 0)

/-- The linear offset of R160. -/
def linear (x y bpp pitch : Nat) : Nat := (y * pitch + x) * bpp / 8

/-- The micro-tiled offset of R165 to R172 with the calculator's thickness `t`. -/
def micro (x y bpp pitch t : Nat) : Nat :=
  8 * t * bpp * (x / 8 + y / 8 * (pitch / 8)) + bpp * pixel x y 0 bpp 1 / 8

/-- The macro-tiled offset of R175 in closed form (R199, and R181 on the sample-split branch), for thickness `t`,
aspect ratio `a` and the bank-swap term `swap`. -/
def macroOffset (x y bpp pitch t a pipeSwizzle bankSwizzle swap : Nat) : Nat :=
  let p := 32 / a
  let h := 16 * a
  let e := (bpp * pixel x y 0 bpp 1 + 7) / 8
  let m := x / p + pitch / p * (y / h)
  let total := if bpp * t ≤ 256 then e + m * (8 * t * bpp) else e
  let pipe := (y / 8 + x / 8 + pipeSwizzle) % 2
  let bank := ((y / 32 + x / 8) % 2 + 2 * ((y / 16 + x / 16) % 2)) ^^^ bankSwizzle ^^^ swap
  total / 256 * 2048 + bank * 512 + pipe * 256 + total % 256

/-- The bank-swap term of R193 and R194 for a bank-swap width `w` and aspect ratio `a`. -/
def swapTerm (x a w : Nat) : Nat :=
  match (32 / a * (x / (32 / a))) / w % 4 with
  | 0 => 0
  | 1 => 1
  | 2 => 3
  | _ => 2

/-- The bank-swap width before halving, R129 to R133 with `slicesPerTile` 1 (R127). -/
def clampedWidth (bpp numSamples a : Nat) : Nat :=
  min (16384 / (numSamples * a * 2 * bpp)) (max (8192 / (numSamples * 8 * bpp)) (max 1 (128 / bpp) * 32))

/-- bpp of the descriptor's format (R111, R214). -/
def reqBpp (s : Machine.State) : Nat := (s.fmtRom.read (4 * (s.descFormat.toNat % 64))).toNat

/-- Membership in `BC_SET` (R115). -/
def blockCompressed (s : Machine.State) : Prop :=
  s.descFormat.toNat ∈ [0x031, 0x431, 0x032, 0x432, 0x033, 0x433, 0x034, 0x234, 0x035, 0x235]

/-- `effWidth` (R212). -/
def reqWidth (s : Machine.State) : Nat :=
  if s.descFormat.toNat ∈ [0x031, 0x431, 0x032, 0x432, 0x033, 0x433, 0x034, 0x234, 0x035, 0x235]
  then s.descWidth.toNat / 4 else s.descWidth.toNat

/-- `effHeight` (R212). -/
def reqHeight (s : Machine.State) : Nat :=
  if s.descFormat.toNat ∈ [0x031, 0x431, 0x032, 0x432, 0x033, 0x433, 0x034, 0x234, 0x035, 0x235]
  then s.descHeight.toNat / 4 else s.descHeight.toNat

/-- `linearOffset` of the descriptor (R57, R219). -/
def reqLinear (s : Machine.State) (x y : Nat) : Nat := (y * reqWidth s + x) * (reqBpp s / 8)

/-- The state after an element mapping whose tiled offset is `tiled` (R210). -/
def mapped (s : Machine.State) (tiled : Nat) : Machine.State :=
  { s with
    resTiled := tiled
    resLinear := reqLinear s s.oprX.toNat s.oprY.toNat
    resEsize := reqBpp s / 8 }

/-- The macro-tiled offset of the element at `(OPR.X, OPR.Y)` under a tile-mode code, without a bank swap. -/
def reqMacro (s : Machine.State) (tm : BitVec 5) (swap : Nat) : Nat :=
  macroOffset s.oprX.toNat s.oprY.toNat (reqBpp s) s.descPitch.toNat (Machine.thickness tm) (Machine.aspect tm)
    (s.descSwizzle.toNat / 256 % 2) (s.descSwizzle.toNat / 512 % 4) swap

/-- The registers a start of an operation reads, by number: `CMD.OP`, which is the model's choice (log entry 2), and
the operands of spec/30_encoding.md R88, but for those the spec says are not read on the tile mode at hand (R126,
R141; the model's choice, log entry 21). -/
def startReads (i : Instr) (s : Machine.State) : List Nat :=
  6 :: match i with
    | .fmtBpp | .fmtIsbc => [2]
    | .tmFamily | .tmThick | .tmAspect | .tmBswe => [3]
    | .tmBsww => if s.descTileMode.toNat ∈ [8, 9, 10, 11, 14, 15] then [3, 5, 11] else [3]
    | .pixIdx => if s.descTileMode.toNat ∈ [3, 7, 11, 13, 15, 16, 17] then [3, 8, 9, 10, 11] else [3, 8, 9, 11]
    | .addrLin => [5, 8, 9, 11]
    | .addrMicro => [1, 3, 5, 8, 9, 11]
    | .addrMacro => [1, 3, 4, 5, 8, 9, 11]
    | .mapElem => [0, 1, 2, 3, 4, 5, 8, 9]
    | .xformSwz | .xformDswz => [0, 1, 2, 3, 4, 5]
    | _ => []

/-- Which starts never complete (spec/60_exceptions.md R247). -/
def hangs (i : Instr) (s : Machine.State) : Prop :=
  s.descPitch.toNat = 0 ∧
  match i with
  | .tmBsww | .addrMacro => Machine.bankSwapEligible s.descTileMode = true ∧ 0 < s.oprBpp.toNat
  | .mapElem => Machine.bankSwapEligible s.descTileMode = true ∧ 0 < reqBpp s
  | .xformSwz | .xformDswz => Machine.bankSwapEligible s.descTileMode = true ∧ 0 < reqBpp s
      ∧ 0 < reqWidth s ∧ 0 < reqHeight s
  | .tm8 | .tm9 | .tm10 | .tm11 | .tm14 | .tm15 => 0 < reqBpp s
  | _ => False

/-- What a transform's result holds at index `a` (spec/20_memory.md R54, R60): the byte of the last write to it in
scan order, where byte `i` of an element is written when both its indices are below `len`; zero if there is none.
`sa`, `da` are the source and destination offsets, `w`, `h` the extent, `n` the element size. -/
def lastWrite (w h n len : Nat) (sa da : Nat → Nat → Nat) (src dst : Machine.Memory) (a : Nat) : Prop :=
  (∃ x y i, x < w ∧ y < h ∧ i < n ∧ sa x y + i < len ∧ da x y + i = a ∧ a < len
    ∧ dst.read a = src.read (sa x y + i)
    ∧ ∀ x' y' i', x' < w → y' < h → i' < n → sa x' y' + i' < len → da x' y' + i' = a →
        y' < y ∨ (y' = y ∧ x' ≤ x))
  ∨ ((∀ x y i, x < w → y < h → i < n → sa x y + i < len → a < len → da x y + i ≠ a) ∧ dst.read a = 0)

end Sys2Proof.Expected

open Sys2Proof Sys2Proof.Machine

/-! ## Starts, decoding, reset -/

/-- A start runs the instruction that `CMD.OP` decodes to, on the state with the host's move taken, when the host has
written every register that the start reads since reset, and is refused with no step when it has not (R31, R39, R98,
R272, X9 of R241); `RUN` first writes `CMD.OP` and marks register 6 written. The list of host moves is the model's
(log entry 6), and so are that a bare start needs `CMD.OP` itself written, whatever it holds (log entry 2), and which
operands of TM.BSWW and PIX.IDX count as read (log entry 21). -/
def Obligations.StepRunsTheDecodedOperation : Prop :=
  ∀ (s : State) (rest : List HostMove) (i : Instr),
    (s.host = .start :: rest → decode .op s.cmdOp.toNat = .ok i → i.wf = true →
      ((∀ n ∈ Expected.startReads i s, s.written.getLsbD n = true) → step s = exec i { s with host := rest })
      ∧ ((∃ n ∈ Expected.startReads i s, s.written.getLsbD n = false) → step s = .refused .registerNeverWritten))
    ∧ (s.host = .start :: rest → s.written.getLsbD 6 = false → step s = .refused .registerNeverWritten)
    ∧ (∀ op : BitVec 4, s.host = .run op :: rest → decode .op op.toNat = .ok i → i.wf = true →
      ((∀ n ∈ Expected.startReads i s, n ≠ 6 → s.written.getLsbD n = true) →
        step s = exec i { s with host := rest, cmdOp := op, written := s.written ||| 0x0040#16 })
      ∧ ((∃ n ∈ Expected.startReads i s, n ≠ 6 ∧ s.written.getLsbD n = false) →
        step s = .refused .registerNeverWritten))

/-- An idle block holds its registers (R260); idle is the model's empty list of host moves (log entry 6). -/
def Obligations.IdleBlockHoldsItsState : Prop :=
  ∀ s : State, s.host = [] → step s = .next s

/-- MAP.ELEM runs the row that `DESC.TILE_MODE` decodes to (R89, R216; that a row has MAP.ELEM's effect is the
model's reading, log entry 10; on the sample-split branch both rest on decision D12, log entry 13). -/
def Obligations.MapElemRunsTheTileModeRow : Prop :=
  ∀ (s : State) (i : Instr), decode .tm s.descTileMode.toNat = .ok i → exec .mapElem s = exec i s

/-- Decoding what the encoder writes gives the instruction back, and encoding what the decoder reads gives the word
back: no code is shared and none is dropped (R81, R82, R88, R89). -/
def Obligations.DecodeAndEncodeAgree : Prop :=
  (∀ i : Instr, decode (encode i).1 (encode i).2 = .ok i)
  ∧ (∀ (space : CodeSpace) (w : Nat) (i : Instr), decode space w = .ok i → encode i = (space, w))
  ∧ (∀ w : Nat, 16 ≤ w → decode .op w = .error .widerThanFourBits)
  ∧ (∀ w : Nat, 32 ≤ w → decode .tm w = .error .widerThanFiveBits)

/-- A few words of R88 and R89 decode to their rows. -/
def Obligations.WrittenWordsDecode : Prop :=
  decode .op 0b0000 = .ok .fmtBpp ∧ decode .op 0b0110 = .ok .tmBsww ∧ decode .op 0b0111 = .ok .pixIdx
  ∧ decode .op 0b1001 = .ok .addrMicro ∧ decode .op 0b1011 = .ok .mapElem ∧ decode .op 0b1101 = .ok .xformDswz
  ∧ decode .op 0b1110 = .ok .opReserved14 ∧ decode .tm 0b00001 = .ok .tm1 ∧ decode .tm 0b00011 = .ok .tm3
  ∧ decode .tm 0b01010 = .ok .tm10 ∧ decode .tm 0b10001 = .ok .tm17 ∧ decode .tm 0b11111 = .ok .tmr31

/-- After reset no register counts as written and the host has no move under way (R270); the registers' zeros and the
empty buffers are the model's choice (log entries 1 and 3). -/
def Obligations.ResetLeavesAnIdleBlock : Prop :=
  State.reset.written = 0#16 ∧ step State.reset = .next State.reset
  ∧ State.reset.len = 0 ∧ (∀ a, State.reset.src.read a = 0#8) ∧ (∀ a, State.reset.dst.read a = 0#8)
  ∧ (∀ n : BitVec 4, n ≠ 7#4 → readRegister State.reset n = some 0)

/-- A start with `CMD.OP` 14 or 15 is refused (R91): the two instructions, every `RUN` that names one and every bare
start, by the name of the reserved operation where the host has written `CMD.OP`. -/
def Obligations.ReservedOperationsAreRefused : Prop :=
  (∀ s : State, exec .opReserved14 s = .refused (.reservedOperation 14#4)
    ∧ exec .opReserved15 s = .refused (.reservedOperation 15#4))
  ∧ ∀ (s : State) (rest : List HostMove) (op : BitVec 4), op = 14#4 ∨ op = 15#4 →
    (s.host = .start :: rest → s.cmdOp = op → (∃ r, step s = .refused r)
      ∧ (s.written.getLsbD 6 = true → step s = .refused (.reservedOperation op)))
    ∧ (s.host = .run op :: rest → step s = .refused (.reservedOperation op))

/-! ## Format and tile-mode metadata -/

/-- FMT.BPP is the first byte of the record that the low 6 bits select, and bits 31 to 6 do not matter (R111). -/
def Obligations.FmtBppReadsTheRecord : Prop :=
  ∀ s : State, exec .fmtBpp s = .next { s with resValue := (s.fmtRom.read (4 * (s.descFormat.toNat % 64))).toNat }
    ∧ ∀ f : Word, f.toNat % 64 = s.descFormat.toNat % 64 →
      exec .fmtBpp { s with descFormat := f } = .next { s with
        descFormat := f
        resValue := (s.fmtRom.read (4 * (s.descFormat.toNat % 64))).toNat }

/-- FMT.ISBC tests the whole code against the ten members (R114); which ten is R115's general knowledge (log entry
12). -/
def Obligations.FmtIsbcTestsTheWholeCode : Prop :=
  ∀ s : State,
    (s.descFormat.toNat ∈ [0x031, 0x431, 0x032, 0x432, 0x033, 0x433, 0x034, 0x234, 0x035, 0x235] →
      exec .fmtIsbc s = .next { s with resValue := 1 })
    ∧ (s.descFormat.toNat ∉ [0x031, 0x431, 0x032, 0x432, 0x033, 0x433, 0x034, 0x234, 0x035, 0x235] →
      exec .fmtIsbc s = .next { s with resValue := 0 })

/-- TM.FAMILY (R120). -/
def Obligations.TmFamilyResult : Prop :=
  ∀ s : State, exec .tmFamily s = .next { s with
    resValue := if s.descTileMode.toNat < 2 then 0 else if s.descTileMode.toNat < 4 then 1 else 2 }

/-- TM.THICK (R121). -/
def Obligations.TmThickResult : Prop :=
  ∀ s : State, exec .tmThick s = .next { s with
    resValue := if s.descTileMode.toNat ∈ [3, 7, 11, 13, 15] then 4
      else if s.descTileMode.toNat ∈ [16, 17] then 8 else 1 }

/-- TM.ASPECT (R122). -/
def Obligations.TmAspectResult : Prop :=
  ∀ s : State, exec .tmAspect s = .next { s with
    resValue := if s.descTileMode.toNat ∈ [5, 9] then 2 else if s.descTileMode.toNat ∈ [6, 10] then 4 else 1 }

/-- TM.BSWE (R123). -/
def Obligations.TmBsweResult : Prop :=
  ∀ s : State, exec .tmBswe s = .next { s with
    resValue := if s.descTileMode.toNat ∈ [8, 9, 10, 11, 14, 15] then 1 else 0 }

/-- TM.BSWW is 0 on a tile mode that is not eligible, whatever bpp and the pitch (R126, first line). -/
def Obligations.TmBswwZeroWhenNotEligible : Prop :=
  ∀ s : State, s.descTileMode.toNat ∉ [8, 9, 10, 11, 14, 15] → exec .tmBsww s = .next { s with resValue := 0 }

/-- TM.BSWW on an eligible mode with bpp and the pitch not 0: the clamped value halved `k` times, where `k` is the
first number of halvings that brings it below twice the pitch (R127 to R133; R129 to R132 are the spec's general
knowledge, log entry 12). -/
def Obligations.TmBswwHalvesTheClampedWidth : Prop :=
  ∀ s : State, s.descTileMode.toNat ∈ [8, 9, 10, 11, 14, 15] → 0 < s.oprBpp.toNat → 0 < s.descPitch.toNat →
    ∃ k : Nat,
      let c := Expected.clampedWidth s.oprBpp.toNat (if s.descTileMode.toNat ∈ [11, 15] then 4 else 1)
        (aspect s.descTileMode)
      exec .tmBsww s = .next { s with resValue := c / 2 ^ k }
      ∧ c / 2 ^ k < 2 * s.descPitch.toNat
      ∧ ∀ j < k, 2 * s.descPitch.toNat ≤ c / 2 ^ j

/-- The bound of R134: below twice the pitch for every pitch of at least 1, and at least 1 for an eligible mode with
bpp from 8 to 248 (the spec's own inference; its formulas are log entry 12). -/
def Obligations.BankSwapWidthBound : Prop :=
  ∀ (tm : BitVec 5) (bpp pitch : Nat), 1 ≤ bpp → bpp ≤ 255 → 1 ≤ pitch →
    ∃ w, bankSwapWidth tm bpp pitch = .value w ∧ w < 2 * pitch
      ∧ (bankSwapEligible tm = true → 8 ≤ bpp → bpp ≤ 248 → 1 ≤ w)

/-- The values of R137's table, for every pitch larger than half the value, and 0 for every other tile mode (the spec
derives the table from the formulas of log entry 12). -/
def Obligations.BankSwapWidthTable : Prop :=
  (∀ row ∈ [((8 : BitVec 5), [512, 256, 128, 64, 32, 32]), (9, [512, 256, 128, 64, 32, 32]),
      (10, [256, 128, 64, 32, 21, 16]), (11, [256, 128, 64, 32, 21, 16]),
      (14, [512, 256, 128, 64, 32, 32]), (15, [256, 128, 64, 32, 21, 16])],
    ∀ entry ∈ [8, 16, 32, 64, 96, 128].zip row.2, ∀ pitch : Nat, entry.2 < 2 * pitch →
      bankSwapWidth row.1 entry.1 pitch = .value entry.2)
  ∧ (∀ (tm : BitVec 5) (bpp pitch : Nat), tm.toNat ∉ [8, 9, 10, 11, 14, 15] →
      bankSwapWidth tm bpp pitch = .value 0)

/-- On an eligible mode with bpp 0 the unit operations complete with a result the spec leaves unspecified: a free
value, for every count of values drawn (R135, R203; the free value is log entry 8). Every other result of MAP.ELEM
is as R210 says. -/
def Obligations.UnspecifiedWidthIsAFreeValue : Prop :=
  ∀ s : State, s.descTileMode.toNat ∈ [8, 9, 10, 11, 14, 15] →
    (s.oprBpp = 0 → ∀ i ∈ [Instr.tmBsww, .addrMacro],
      exec i s = .next { s with resValue := Config.freeNat s.freeCount, freeCount := s.freeCount + 1 })
    ∧ (Expected.reqBpp s = 0 → exec .mapElem s = .next { s with
        resTiled := Config.freeNat s.freeCount, resLinear := 0, resEsize := 0, freeCount := s.freeCount + 1 })

/-! ## Pixel interleaver -/

/-- PIX.IDX: each output bit is the input bit that the class's table names, and the z bits come with the thickness
(R140, R141, R142; the tables of R144 are the spec's general knowledge, log entry 12). -/
def Obligations.PixIdxFollowsTheTables : Prop :=
  ∀ s : State, exec .pixIdx s = .next { s with
    resValue := Expected.pixel s.oprX.toNat s.oprY.toNat s.oprZ.toNat s.oprBpp.toNat (thickness s.descTileMode) }

/-- Bijectivity (R145): for each thickness `t` and any bpp, the map from `(x mod 8, y mod 8, z)` with `z` below `t`
takes every value below `64 * t` exactly once (the spec derives it for the tables of log entry 12). -/
def Obligations.PixelIndexBijective : Prop :=
  ∀ (bpp : Nat) (tm : BitVec 5) (v : Nat), v < 64 * thickness tm →
    ∃! q : Nat × Nat × Nat, (q.1 < 8 ∧ q.2.1 < 8 ∧ q.2.2 < thickness tm) ∧ pixelIndex q.1 q.2.1 q.2.2 bpp tm = v

/-- Only the low three bits of the coordinates are read (R146), and the index has 6, 8 or 9 bits, 6 when z is 0
(R147; both are the spec's own inferences). -/
def Obligations.PixelIndexReadsLowBitsAndIsBounded : Prop :=
  ∀ (x y z bpp : Nat) (tm : BitVec 5),
    pixelIndex x y z bpp tm = pixelIndex (x % 8) (y % 8) z bpp tm
    ∧ pixelIndex x y z bpp tm < 64 * thickness tm
    ∧ pixelIndex x y 0 bpp tm < 64

/-! ## Address calculators -/

/-- ADDR.LIN (R160): the product in full, then the floor of an eighth. -/
def Obligations.AddrLinResult : Prop :=
  ∀ s : State, exec .addrLin s = .next { s with
    resValue := (s.oprY.toNat * s.descPitch.toNat + s.oprX.toNat) * s.oprBpp.toNat / 8 }

/-- ADDR.MICRO (R165 to R170, R174): with any tile-mode code, the thickness is 4 on code 3 and 1 otherwise
(it rests on the interleaver's tables, log entry 12). -/
def Obligations.AddrMicroResult : Prop :=
  ∀ s : State, exec .addrMicro s = .next { s with
    resValue := Expected.micro s.oprX.toNat s.oprY.toNat s.oprBpp.toNat s.descPitch.toNat
      (if s.descTileMode.toNat = 3 then 4 else 1) }

/-- The height changes no address: not ADDR.MICRO's (R171), not ADDR.MACRO's (R189); the spec derives both. On the
sample-split branch it rests on decision D12 (log entry 13). -/
def Obligations.HeightChangesNoAddress : Prop :=
  ∀ (s : State) (h : Word), ∀ i ∈ [Instr.addrMicro, .addrMacro], ∀ t : State, exec i s = .next t →
    exec i { s with descHeight := h } = .next { t with descHeight := h }

/-- In tile mode 2 with a bpp that is a positive multiple of 8 and the pitch a multiple of 8, the elements of a
`pitch` by `h` surface, `h` a multiple of 8, fill the element slots below `pitch * h` exactly once
(R172, an inference of the spec). -/
def Obligations.MicroTileSlotsBijective : Prop :=
  ∀ (bpp pitch h height v : Nat), 0 < bpp → bpp % 8 = 0 → pitch % 8 = 0 → h % 8 = 0 → v < pitch * h →
    ∃! q : Nat × Nat, (q.1 < pitch ∧ q.2 < h) ∧ addrMicro q.1 q.2 bpp pitch height 2#5 = v * (bpp / 8)

/-- ADDR.MACRO on a tile mode that is not bank-swap eligible (R175 steps 1 to 11 and 13; both branches of step 4),
with any tile-mode code, pitch and bpp (the interleaver's tables are log entry 12; the value on the sample-split
branch rests on decision D12, log entry 13). -/
def Obligations.AddrMacroPlainResult : Prop :=
  ∀ s : State, s.descTileMode.toNat ∉ [8, 9, 10, 11, 14, 15] → exec .addrMacro s = .next { s with
    resValue := Expected.macroOffset s.oprX.toNat s.oprY.toNat s.oprBpp.toNat s.descPitch.toNat
      (thickness s.descTileMode) (aspect s.descTileMode)
      (s.descSwizzle.toNat / 256 % 2) (s.descSwizzle.toNat / 512 % 4) 0 }

/-- ADDR.MACRO on an eligible tile mode with bpp and the pitch not 0: the bank is swapped by the term that TM.BSWW's
width selects (R175, R193, R194; log entry 12, and on the sample-split branch decision D12, log entry 13). -/
def Obligations.AddrMacroSwappedResult : Prop :=
  ∀ s : State, s.descTileMode.toNat ∈ [8, 9, 10, 11, 14, 15] → 0 < s.oprBpp.toNat → 0 < s.descPitch.toNat →
    ∃ w : Nat, exec .tmBsww s = .next { s with resValue := w } ∧ exec .addrMacro s = .next { s with
      resValue := Expected.macroOffset s.oprX.toNat s.oprY.toNat s.oprBpp.toNat s.descPitch.toNat
        (thickness s.descTileMode) (aspect s.descTileMode)
        (s.descSwizzle.toNat / 256 % 2) (s.descSwizzle.toNat / 512 % 4)
        (Expected.swapTerm s.oprX.toNat (aspect s.descTileMode) w) }

/-- The sample-split step: one slice with one sample when `bpp * t` is at most 256 (R180), and on the split branch no
sample, slice 0 and the offset unchanged (R181, the spec's decision D12, log entry 13), for an offset of the
tile. -/
def Obligations.SampleSplitIsDegenerate : Prop :=
  ∀ (bpp t e : Nat), (bpp * t ≤ 256 → sampleSplit bpp t e = { numSamples := 1, sampleSlice := 0, elemBits := e })
    ∧ (256 < bpp * t → e < 64 * bpp → sampleSplit bpp t e = { numSamples := 0, sampleSlice := 0, elemBits := e })

/-- The rotation and swizzle step with sample slice 0 is two exclusive ors (R187, an inference of the spec). -/
def Obligations.RotationReducesToXor : Prop :=
  ∀ x y pipeSwizzle bankSwizzle : Nat, pipeSwizzle < 2 → bankSwizzle < 4 →
    rotateBankPipe (pipeBefore x y) (bankBefore x y) 0 pipeSwizzle bankSwizzle % 2 = pipeBefore x y ^^^ pipeSwizzle
    ∧ rotateBankPipe (pipeBefore x y) (bankBefore x y) 0 pipeSwizzle bankSwizzle / 2 = bankBefore x y ^^^ bankSwizzle

/-- The assembled address holds each part in its own field: the bank at bits 10 and 9, the pipe at bit 8, the low 8
bits of the total below them and the rest from bit 11 on (R198). -/
def Obligations.TaddrFieldsDoNotOverlap : Prop :=
  ∀ bank pipe total : Nat, bank < 4 → pipe < 2 →
    taddrOffsetLow (assembleAddress bank pipe total) = total % 256
    ∧ taddrPipe (assembleAddress bank pipe total) = pipe
    ∧ taddrBank (assembleAddress bank pipe total) = bank
    ∧ taddrGroup (assembleAddress bank pipe total) = total / 256

/-- Injectivity on thin macro-tiled modes (R200): with the pitch a positive multiple of the macro-tile pitch, columns
below the pitch and bpp 8, 16, 32, 64 or 128, distinct elements have disjoint byte ranges (an inference of the spec). -/
def Obligations.ThinMacroRangesDisjoint : Prop :=
  ∀ (tm : BitVec 5) (bpp pitch height height' pipeSwizzle bankSwizzle x y x' y' a a' : Nat),
    thickness tm = 1 → bpp ∈ [8, 16, 32, 64, 128] → 0 < pitch → pitch % macroTilePitch tm = 0 →
    pipeSwizzle < 2 → bankSwizzle < 4 → x < pitch → x' < pitch → (x, y) ≠ (x', y') →
    addrMacro x y bpp pitch height tm pipeSwizzle bankSwizzle = .value a →
    addrMacro x' y' bpp pitch height' tm pipeSwizzle bankSwizzle = .value a' →
    a + bpp / 8 ≤ a' ∨ a' + bpp / 8 ≤ a

/-! ## Element mapping and the tile-mode rows -/

/-- MAP.ELEM dispatches on the family: ADDR.LIN, ADDR.MICRO or ADDR.MACRO with the format's bpp in the place of
`OPR.BPP` and the scaled height, wherever that calculator answers (R210, R216, R219; the height passed is R217's
decision; an address on the sample-split branch rests on decision D12, log entry 13). -/
def Obligations.MapElemDispatchesToTheCalculator : Prop :=
  ∀ s t : State,
    exec (if s.descTileMode.toNat < 2 then Instr.addrLin else if s.descTileMode.toNat < 4 then .addrMicro else .addrMacro)
      { s with oprBpp := BitVec.ofNat 8 (Expected.reqBpp s), descHeight := BitVec.ofNat 32 (Expected.reqHeight s) }
        = .next t →
    exec .mapElem s = .next { Expected.mapped s t.resValue with freeCount := t.freeCount }

/-- The linear rows (R160, R161, R210, R219; that a row has MAP.ELEM's effect is log entry 10). -/
def Obligations.LinearRowsResult : Prop :=
  ∀ s : State, ∀ i ∈ [Instr.tm0, .tm1], exec i s = .next (Expected.mapped s
    (Expected.linear s.oprX.toNat s.oprY.toNat (Expected.reqBpp s) s.descPitch.toNat))

/-- The micro-tiled rows (R165, R210; that a row has MAP.ELEM's effect is log entry 10, the interleaver's tables are log
entry 12). -/
def Obligations.MicroRowsResult : Prop :=
  ∀ s : State,
    exec .tm2 s = .next (Expected.mapped s
      (Expected.micro s.oprX.toNat s.oprY.toNat (Expected.reqBpp s) s.descPitch.toNat 1))
    ∧ exec .tm3 s = .next (Expected.mapped s
      (Expected.micro s.oprX.toNat s.oprY.toNat (Expected.reqBpp s) s.descPitch.toNat 4))

/-- The macro-tiled rows without a bank swap, the reserved ones among them (R92, R93, R175, R205). Rows 7, 13, 16 and 17
take the sample-split branch where bpp times the thickness is above 256: their value there rests on the spec's decision
D12 (R181; log entry 13). That a row has MAP.ELEM's effect is log entry 10, the interleaver's tables are log entry 12,
that reserved codes run is log entry 14. -/
def Obligations.PlainMacroRowsResult : Prop :=
  ∀ s : State, ∀ r ∈ [(Instr.tm4, (4 : BitVec 5)), (.tm5, 5), (.tm6, 6), (.tm7, 7), (.tm12, 12), (.tm13, 13),
      (.tm16, 16), (.tm17, 17), (.tmr18, 18), (.tmr19, 19), (.tmr20, 20), (.tmr21, 21), (.tmr22, 22), (.tmr23, 23),
      (.tmr24, 24), (.tmr25, 25), (.tmr26, 26), (.tmr27, 27), (.tmr28, 28), (.tmr29, 29), (.tmr30, 30), (.tmr31, 31)],
    exec r.1 s = .next (Expected.mapped s (Expected.reqMacro s r.2 0))

/-- The bank-swapped rows with bpp and the pitch not 0: the swap term is the one of the width that TM.BSWW gives for
the row's code and the format's bpp (R175, R193). Rows 11 and 15 take the sample-split branch where bpp times the
thickness is above 256: their value there rests on the spec's decision D12 (R181; log entry 13). That a row has
MAP.ELEM's effect is log entry 10, the interleaver's tables and the bank-swap formulas are log entry 12. -/
def Obligations.SwappedMacroRowsResult : Prop :=
  ∀ s : State, 0 < Expected.reqBpp s → 0 < s.descPitch.toNat →
    ∀ r ∈ [(Instr.tm8, (8 : BitVec 5)), (.tm9, 9), (.tm10, 10), (.tm11, 11), (.tm14, 14), (.tm15, 15)],
      ∃ w : Nat,
        exec .tmBsww { s with descTileMode := r.2, oprBpp := BitVec.ofNat 8 (Expected.reqBpp s) }
          = .next { s with descTileMode := r.2, oprBpp := BitVec.ofNat 8 (Expected.reqBpp s), resValue := w }
        ∧ exec r.1 s = .next (Expected.mapped s
            (Expected.reqMacro s r.2 (Expected.swapTerm s.oprX.toNat (aspect r.2) w)))

/-- Tile-mode codes with the same attributes compute the same address, whatever the operands
(R176, R206, inferences of the spec; on the sample-split branch decision D12, log entry 13). -/
def Obligations.EqualAttributesEqualAddresses : Prop :=
  ∀ x y bpp pitch height pipeSwizzle bankSwizzle : Nat, ∀ group ∈ [([0, 1, 2, 4, 12, 18, 19, 20, 21, 22, 23, 24, 25, 26,
      27, 28, 29, 30, 31] : List (BitVec 5)), [8, 14], [3, 7, 13], [11, 15], [16, 17]],
    ∀ tm ∈ group, ∀ tm' ∈ group,
      addrMacro x y bpp pitch height tm pipeSwizzle bankSwizzle
        = addrMacro x y bpp pitch height tm' pipeSwizzle bankSwizzle

/-- Swizzle bits outside 8, 9 and 10 are ignored by every instruction (R29, R84; the spec's own inference; on the
sample-split branch decision D12, log entry 13). -/
def Obligations.OtherSwizzleBitsAreIgnored : Prop :=
  ∀ (s t : State) (v : Word) (i : Instr), v.toNat / 256 % 8 = s.descSwizzle.toNat / 256 % 8 → exec i s = .next t →
    exec i { s with descSwizzle := v } = .next { t with descSwizzle := v }

/-! ## Transforms -/

/-- A transform completes unless the tile mode is eligible, bpp > 0, the pitch 0 and the extent not empty; it leaves
`SCAN` at the end of the walk and touches, besides `DST`, only `OPR.X` and `OPR.Y`, which are free values
(R30, R223, R224, R225, R279; the free values are log entry 9, the final `SCAN` log entry 19, that the
marks of `OPR.X` and `OPR.Y` stay set log entry 20; on the sample-split branch it rests on decision D12, log entry 13). -/
def Obligations.TransformsComplete : Prop :=
  ∀ s : State, ∀ i ∈ [Instr.xformSwz, .xformDswz],
    ¬ (bankSwapEligible s.descTileMode = true ∧ 0 < Expected.reqBpp s ∧ s.descPitch.toNat = 0
      ∧ 0 < Expected.reqWidth s ∧ 0 < Expected.reqHeight s) →
    ∃ d : Memory, exec i s = .next { s with
      dst := d
      scanY := if Expected.reqWidth s = 0 then 0 else BitVec.ofNat 32 (Expected.reqHeight s)
      scanX := 0
      oprX := Config.freeWord s.freeCount
      oprY := Config.freeWord (s.freeCount + 1)
      freeCount := s.freeCount + 2 }

/-- XFORM.SWZ: where MAP.ELEM gives each element of the extent the tiled offset `f x y`, every byte of `DST` is the
last write to it in scan order, from linear to tiled offsets, each byte skipped by itself when an index is not below
`LEN`, and zero where nothing is written (R54, R60, R213, R221, R223). An offset on the sample-split branch rests on
decision D12 (log entry 13). -/
def Obligations.SwizzleResult : Prop :=
  ∀ (s : State) (f : Nat → Nat → Nat),
    (∀ x y, x < Expected.reqWidth s → y < Expected.reqHeight s →
      ∃ u, exec .mapElem { s with oprX := BitVec.ofNat 32 x, oprY := BitVec.ofNat 32 y } = .next u ∧ u.resTiled = f x y) →
    ∃ t, exec .xformSwz s = .next t ∧ ∀ a,
      Expected.lastWrite (Expected.reqWidth s) (Expected.reqHeight s) (Expected.reqBpp s / 8) s.len
        (Expected.reqLinear s) f s.src t.dst a

/-- XFORM.DSWZ: the same with the roles of the two offsets swapped (R222, R224). An offset on the sample-split branch
rests on decision D12 (log entry 13). -/
def Obligations.DeswizzleResult : Prop :=
  ∀ (s : State) (f : Nat → Nat → Nat),
    (∀ x y, x < Expected.reqWidth s → y < Expected.reqHeight s →
      ∃ u, exec .mapElem { s with oprX := BitVec.ofNat 32 x, oprY := BitVec.ofNat 32 y } = .next u ∧ u.resTiled = f x y) →
    ∃ t, exec .xformDswz s = .next t ∧ ∀ a,
      Expected.lastWrite (Expected.reqWidth s) (Expected.reqHeight s) (Expected.reqBpp s / 8) s.len
        f (Expected.reqLinear s) s.src t.dst a

/-- Linear ranges of distinct elements are disjoint: in XFORM.DSWZ no two elements write the same byte
(R61, an inference of the spec). -/
def Obligations.LinearRangesDisjoint : Prop :=
  ∀ (p : Plan) (x y x' y' : Nat), p.inside x y → p.inside x' y' → (x, y) ≠ (x', y') →
    linearOffset p x y + p.elementSize ≤ linearOffset p x' y'
    ∨ linearOffset p x' y' + p.elementSize ≤ linearOffset p x y

/-- An empty extent or bpp 0 leaves `DST` all zero, whatever the tile mode and the pitch (R226, an inference of
the spec, and R227, its decision). -/
def Obligations.EmptyExtentOrZeroBppGivesZeros : Prop :=
  ∀ s : State, (Expected.reqWidth s = 0 ∨ Expected.reqHeight s = 0 ∨ Expected.reqBpp s = 0) →
    ∀ i ∈ [Instr.xformSwz, .xformDswz], ∃ t, exec i s = .next t ∧ ∀ a, t.dst.read a = 0#8

/-- The linear modes with the pitch equal to the effective width: XFORM.SWZ is the identity on the bytes of the
surface (R164). -/
def Obligations.LinearModeIsTheIdentity : Prop :=
  ∀ s : State, s.descTileMode.toNat < 2 → s.descPitch.toNat = Expected.reqWidth s → Expected.reqBpp s % 8 = 0 →
    ∃ t, exec .xformSwz s = .next t ∧ ∀ a, a < s.len →
      a < Expected.reqWidth s * Expected.reqHeight s * (Expected.reqBpp s / 8) → t.dst.read a = s.src.read a

/-- Round trip (R229): for a well-formed request, XFORM.DSWZ of XFORM.SWZ agrees with the source on every byte of every
element's linear range and is zero elsewhere; when the linear ranges cover the buffer, it is the source.
The spec derives this law. -/
def Obligations.RoundTripRestoresTheSource : Prop :=
  ∀ s : State, WellFormedRequest s →
    ∃ t u, exec .xformSwz s = .next t ∧ exec .xformDswz { t with src := t.dst } = .next u
      ∧ (∀ x y i, x < Expected.reqWidth s → y < Expected.reqHeight s → i < Expected.reqBpp s / 8 →
          u.dst.read (Expected.reqLinear s x y + i) = s.src.read (Expected.reqLinear s x y + i))
      ∧ (∀ a, (∀ x y i, x < Expected.reqWidth s → y < Expected.reqHeight s → i < Expected.reqBpp s / 8 →
          a ≠ Expected.reqLinear s x y + i) → u.dst.read a = 0#8)
      ∧ (s.wf = true → s.len = Expected.reqWidth s * Expected.reqHeight s * (Expected.reqBpp s / 8) → u.dst = s.src)

/-- For a well-formed request any order of the elements gives the sequential result (R62, R284). -/
def Obligations.AnyElementOrderGivesTheResult : Prop :=
  ∀ (s t : State) (f : Nat → Nat → Nat) (order : List (Nat × Nat)), WellFormedRequest s →
    (∀ x y, (planOf s).inside x y → tiledOffset (planOf s) x y = .value (f x y)) →
    order.Nodup → (∀ e : Nat × Nat, e ∈ order ↔ (planOf s).inside e.1 e.2) →
    exec .xformSwz s = .next t →
    order.foldl (fun d e => elemCopy s.len s.src (linearOffset (planOf s) e.1 e.2) (f e.1 e.2)
      (planOf s).elementSize d) [] = t.dst

/-- The same descriptor, format table, source and length give the same `DST`, whatever else the states hold (R56; on
the sample-split branch decision D12, log entry 13). -/
def Obligations.TransformDependsOnItsOperandsOnly : Prop :=
  ∀ s s' t : State, s.descWidth = s'.descWidth → s.descHeight = s'.descHeight → s.descFormat = s'.descFormat →
    s.descTileMode = s'.descTileMode → s.descSwizzle = s'.descSwizzle → s.descPitch = s'.descPitch →
    s.fmtRom = s'.fmtRom → s.src = s'.src → s.len = s'.len →
    ∀ i ∈ [Instr.xformSwz, .xformDswz], exec i s = .next t → ∃ t', exec i s' = .next t' ∧ t'.dst = t.dst

/-! ## Whole-machine rules -/

/-- The meaning of every instruction either completes, or meets operands on which the operation never completes (the
model's named fault, log entry 7), or is a reserved operation and refused (R240, R247, R248). R247 names TM.BSWW,
ADDR.MACRO, MAP.ELEM and the transforms; that the tile-mode rows complete, and that the bank-swapped ones never complete
on the same operands, is the model's reading of them as MAP.ELEM's effect (log entry 10). That ADDR.MACRO and what uses it
complete on the sample-split branch rests on decision D12 (log entry 13). It is about `exec`: that
a start which reads a register never written is refused before it (R251, X9 of R241) is StepRunsTheDecodedOperation's,
with the choice of log entry 2. -/
def Obligations.EveryMeaningCompletesOrIsNamed : Prop :=
  ∀ (i : Instr) (s : State),
    (¬ Expected.hangs i s → i ≠ .opReserved14 → i ≠ .opReserved15 → ∃ t, exec i s = .next t)
    ∧ (Expected.hangs i s → exec i s = .fault .swapWidthNeverEnds)

/-- No instruction writes a descriptor register, `CMD.OP`, `OPR.Z`, `OPR.BPP`, `SRC`, `LEN` or a table (R21, R32, R36,
R37), nor the marks of what the host wrote (R39; that a transform leaves those of `OPR.X` and `OPR.Y` set is the
model's, log entry 20) or the host's own fields. The tile-mode rows are read as MAP.ELEM's effect (log entry 10). -/
def Obligations.OperationsLeaveTheirOperands : Prop :=
  ∀ (i : Instr) (s t : State), exec i s = .next t →
    t.descWidth = s.descWidth ∧ t.descHeight = s.descHeight ∧ t.descFormat = s.descFormat
    ∧ t.descTileMode = s.descTileMode ∧ t.descSwizzle = s.descSwizzle ∧ t.descPitch = s.descPitch
    ∧ t.cmdOp = s.cmdOp ∧ t.oprZ = s.oprZ ∧ t.oprBpp = s.oprBpp ∧ t.src = s.src ∧ t.len = s.len
    ∧ t.fmtRom = s.fmtRom ∧ t.written = s.written ∧ t.host = s.host ∧ t.reading = s.reading

/-- Only the two transforms write `DST`, the scan counter, `OPR.X` and `OPR.Y` (R21, R30, R36, R279). That the tile-mode
rows leave them rests on the model's reading of a row as MAP.ELEM's effect (log entry 10). -/
def Obligations.OnlyTransformsWriteTheBuffer : Prop :=
  ∀ (i : Instr) (s t : State), i ≠ .xformSwz → i ≠ .xformDswz → exec i s = .next t →
    (∀ a, t.dst.read a = s.dst.read a) ∧ t.dst = s.dst ∧ t.scanY = s.scanY ∧ t.scanX = s.scanX ∧ t.oprX = s.oprX
    ∧ t.oprY = s.oprY

/-- `RES.TILED`, `RES.LINEAR`, `RES.ESIZE` are written by MAP.ELEM (and the tile-mode rows, log entry 10) only,
`RES.VALUE` by the other unit operations only; the transforms write none (R279). -/
def Obligations.ResultRegistersHoldTheLastResult : Prop :=
  ∀ (i : Instr) (s t : State), exec i s = .next t →
    ((encode i).1 = .op → i ≠ .mapElem →
      t.resTiled = s.resTiled ∧ t.resLinear = s.resLinear ∧ t.resEsize = s.resEsize)
    ∧ ((encode i).1 = .tm ∨ i = .mapElem ∨ i = .xformSwz ∨ i = .xformDswz → t.resValue = s.resValue)

/-- No byte of `DST` beyond `LEN` is ever written, and the length is kept (R36, R54, R68). -/
def Obligations.TransformsStayInsideTheBuffer : Prop :=
  ∀ s t : State, ∀ i ∈ [Instr.xformSwz, .xformDswz], exec i s = .next t →
    t.len = s.len ∧ t.src = s.src ∧ ∀ a, s.len ≤ a → t.dst.read a = 0#8

/-- Every step keeps the invariant: both buffers canonical and of `LEN` bytes, the format table as R112 says. -/
def Obligations.EveryStepKeepsTheInvariant : Prop :=
  ∀ s t : State, s.wf = true → step s = .next t → t.wf = true

/-- The invariant holds at reset. -/
def Obligations.ResetMeetsTheInvariant : Prop := State.reset.wf = true

/-- A table that meets the invariant holds a multiple of 8 in byte 0 of every record, at most 248 (R112). -/
def Obligations.FormatBppIsAMultipleOfEight : Prop :=
  ∀ s : State, s.wf = true → ∃ t, exec .fmtBpp s = .next t ∧ t.resValue % 8 = 0 ∧ t.resValue ≤ 248

/-- No step of any kind changes the model's parameter, the format table (R37, R40): the machine that takes the table as
an argument and has a state without it has the same meanings, steps and runs as the machine that carries it. -/
def Obligations.NoStepWritesTheFormatTable : Prop :=
  (∀ s t : State, step s = .next t → t.fmtRom = s.fmtRom)
  ∧ ∀ (p : Parameters) (r r' : BlockRun),
    (∀ i : Instr, execFor p i r = .next r' ↔
      exec i { toParameters := p, toBlockRun := r } = .next { toParameters := p, toBlockRun := r' })
    ∧ (stepFor p r = .next r' ↔
      step { toParameters := p, toBlockRun := r } = .next { toParameters := p, toBlockRun := r' })
    ∧ ∀ n : Nat, Host.Core.run (coreFor p) n r = .next r' ↔
      Host.Core.run Sys2Proof.core n { toParameters := p, toBlockRun := r }
        = .next { toParameters := p, toBlockRun := r' }

/-! ## Host moves -/

/-- A `SET` that fits writes its register and no other (R25, R98; the list of host moves is log entry 6). -/
def Obligations.SetWritesOneRegister : Prop :=
  ∀ (s : State) (rest : List HostMove) (n : BitVec 4) (v w : Nat), s.host = .set n v :: rest →
    hostWriteWidth n = some w → v < 2 ^ w →
    ∃ t, step s = .next t ∧ readRegister t n = some v ∧ (∀ m, m ≠ n → readRegister t m = readRegister s m)
      ∧ (∀ k < 16, t.written.getLsbD k = (s.written.getLsbD k || k == n.toNat))
      ∧ t.scanY = s.scanY ∧ t.scanX = s.scanX ∧ t.src = s.src ∧ t.dst = s.dst ∧ t.len = s.len
      ∧ t.fmtRom = s.fmtRom ∧ t.freeCount = s.freeCount ∧ t.host = rest ∧ t.reading = s.reading

/-- A `SET` of a number the host does not write, or of a value too wide, and a `GET` of register 7 are refused: the
spec gives the host no such move (R21, R24, R25; the refusals are log entry 16). -/
def Obligations.MovesTheSpecLacksAreRefused : Prop :=
  ∀ (s : State) (rest : List HostMove) (n : BitVec 4) (v : Nat),
    (s.host = .set n v :: rest → n.toNat ∈ [7, 12, 13, 14, 15] → step s = .refused (.noSuchHostWrite n))
    ∧ (∀ w, s.host = .set n v :: rest → hostWriteWidth n = some w → 2 ^ w ≤ v →
        step s = .refused (.valueTooWide n v))
    ∧ (s.host = .get (.reg 7#4) :: rest → step s = .refused (.noSuchRegister 7#4))

/-- `LOAD SRC` gives `SRC` the bytes and `LEN` their number, and writes no register (R97, R98); `DST` keeps its bytes
below the new length (log entry 15). -/
def Obligations.LoadSuppliesTheSource : Prop :=
  ∀ (s : State) (rest : List HostMove) (bs : List Byte), s.host = .load bs :: rest →
    ∃ t, step s = .next t ∧ t.len = bs.length ∧ (∀ i, t.src.read i = bs.getD i 0#8)
      ∧ (∀ a, t.dst.read a = if a < bs.length then s.dst.read a else 0#8)
      ∧ (∀ n, readRegister t n = readRegister s n) ∧ t.written = s.written ∧ t.fmtRom = s.fmtRom ∧ t.host = rest

/-- `GET` hands the host a register's value or the `LEN` bytes of `DST` and changes nothing of the block (R56, R98;
the reading is log entry 16). -/
def Obligations.GetHandsOverTheValue : Prop :=
  ∀ (s : State) (rest : List HostMove),
    (s.host = .get .dst :: rest →
      step s = .next { s with host := rest, reading := .bytes ((List.range s.len).map s.dst.read) })
    ∧ (∀ (n : BitVec 4) (v : Nat), s.host = .get (.reg n) :: rest → readRegister s n = some v →
      step s = .next { s with host := rest, reading := .value v })
end

