-- ==== Sys2Proof/Laws/Memory.lean ====
section
/-! SUPPORT. The laws of a byte space: read after write, the canonical form, the element copy. -/

namespace Sys2Proof.Machine

@[simp] theorem Memory.read_nil (a : Nat) : Memory.read [] a = 0#8 := rfl

theorem Memory.wf_cons {k : Nat} {v : Byte} {m : Memory} :
    Memory.wf ((k, v) :: m) = true ↔ v ≠ 0#8 ∧ (∀ c ∈ m, k < c.1) ∧ m.wf = true := by
  simp [Memory.wf, and_assoc]

/-- Nothing is listed at an index below every listed index. -/
theorem Memory.read_of_lt {m : Memory} {a : Nat} (h : ∀ c ∈ m, a < c.1) : m.read a = 0#8 := by
  induction m with
  | nil => rfl
  | cons c rest ih =>
    obtain ⟨k, v⟩ := c
    have hk : a < k := h (k, v) (by simp)
    have hne : k ≠ a := by omega
    simp only [Memory.read, hne, if_false]
    exact ih (fun c hc => h c (by simp [hc]))

theorem Memory.read_eq_zero_of_below {m : Memory} {n a : Nat} (h : m.below n = true) (ha : n ≤ a) :
    m.read a = 0#8 := by
  induction m with
  | nil => rfl
  | cons c rest ih =>
    obtain ⟨k, v⟩ := c
    simp only [Memory.below, List.all_cons, Bool.and_eq_true, decide_eq_true_eq] at h
    have hne : k ≠ a := by omega
    simp only [Memory.read, hne, if_false]
    exact ih h.2

/-- The cells of a written memory are the written one and old ones. -/
theorem Memory.mem_write {m : Memory} {a : Nat} {b : Byte} {c : Host.Cell} (h : c ∈ m.write a b) :
    (c = (a, b) ∧ b ≠ 0#8) ∨ c ∈ m := by
  induction m with
  | nil =>
    simp only [Memory.write] at h
    split at h <;> simp_all
  | cons d rest ih =>
    obtain ⟨k, v⟩ := d
    simp only [Memory.write] at h
    split at h
    · rcases List.mem_cons.1 h with h | h
      · simp [h]
      · rcases ih h with h | h
        · exact .inl h
        · simp [h]
    · split at h
      · split at h
        · simp [h]
        · rcases List.mem_cons.1 h with h | h
          · simp_all
          · simp [h]
      · split at h
        · exact .inr h
        · rcases List.mem_cons.1 h with h | h
          · simp_all
          · exact .inr h

/-- Reading a written memory: the written byte at its index, every other index as before. -/
theorem Memory.read_write {m : Memory} (hm : m.wf = true) (a a' : Nat) (b : Byte) :
    (m.write a b).read a' = if a' = a then b else m.read a' := by
  induction m with
  | nil =>
    simp only [Memory.write]
    split
    · rename_i hb; simp [hb]
    · simp only [Memory.read, @eq_comm _ a a']
  | cons d rest ih =>
    obtain ⟨k, v⟩ := d
    obtain ⟨hv, hlt, hrest⟩ := Memory.wf_cons.1 hm
    have ih := ih hrest
    simp only [Memory.write]
    split
    · rename_i hka
      by_cases hk : k = a'
      · have hne : a' ≠ a := by omega
        simp [Memory.read, hk, hne]
      · simp [Memory.read, hk, ih]
    · split
      · rename_i _ hka
        subst hka
        split
        · rename_i hb
          by_cases ha : a' = k
          · subst ha hb
            rw [Memory.read_of_lt hlt]; simp
          · have : k ≠ a' := by omega
            simp [Memory.read, ha, this]
        · by_cases ha : a' = k
          · simp [Memory.read, ha]
          · have : k ≠ a' := by omega
            simp [Memory.read, ha, this]
      · rename_i h1 h2
        have hbelow : ∀ c ∈ ((k, v) :: rest : Memory), a < c.1 := by
          intro c hc
          rcases List.mem_cons.1 hc with h | h
          · simp only [h]; omega
          · have := hlt c h; omega
        split
        · rename_i hb
          by_cases ha : a' = a
          · rw [ha, Memory.read_of_lt hbelow]; simp [hb]
          · simp [ha]
        · by_cases ha : a' = a
          · simp [Memory.read, ha]
          · have : a ≠ a' := by omega
            simp [Memory.read, ha, this]

/-- A write keeps the canonical form. -/
theorem Memory.wf_write {m : Memory} (hm : m.wf = true) (a : Nat) (b : Byte) : (m.write a b).wf = true := by
  induction m with
  | nil =>
    simp only [Memory.write]
    split
    · rfl
    · rename_i hb; simp [Memory.wf, hb]
  | cons d rest ih =>
    obtain ⟨k, v⟩ := d
    obtain ⟨hv, hlt, hrest⟩ := Memory.wf_cons.1 hm
    simp only [Memory.write]
    split
    · rename_i hka
      refine Memory.wf_cons.2 ⟨hv, fun c hc => ?_, ih hrest⟩
      rcases Memory.mem_write hc with h | h
      · simp [h.1, hka]
      · exact hlt c h
    · split
      · rename_i _ hka
        subst hka
        split
        · exact hrest
        · rename_i hb
          exact Memory.wf_cons.2 ⟨hb, hlt, hrest⟩
      · split
        · exact hm
        · rename_i h1 h2 hb
          refine Memory.wf_cons.2 ⟨hb, fun c hc => ?_, hm⟩
          rcases List.mem_cons.1 hc with h | h
          · simp only [h]; omega
          · have := hlt c h; omega

/-- A write inside a buffer stays inside it. -/
theorem Memory.below_write {m : Memory} {n a : Nat} (hm : m.below n = true) (ha : a < n) (b : Byte) :
    (m.write a b).below n = true := by
  simp only [Memory.below, List.all_eq_true, decide_eq_true_eq] at *
  intro c hc
  rcases Memory.mem_write hc with h | h
  · simp [h.1, ha]
  · exact hm c h

/-- Canonical memories with the same bytes are the same list. -/
theorem Memory.ext_of_wf {m m' : Memory} (hm : m.wf = true) (hm' : m'.wf = true)
    (h : ∀ a, m.read a = m'.read a) : m = m' := by
  induction m generalizing m' with
  | nil =>
    cases m' with
    | nil => rfl
    | cons d rest =>
      obtain ⟨k, v⟩ := d
      have := h k
      simp [Memory.read] at this
      exact absurd this.symm (Memory.wf_cons.1 hm').1
  | cons c rest ih =>
    obtain ⟨k, v⟩ := c
    obtain ⟨hv, hlt, hrest⟩ := Memory.wf_cons.1 hm
    cases m' with
    | nil =>
      have := h k
      simp [Memory.read] at this
      exact absurd this hv
    | cons d rest' =>
      obtain ⟨k', v'⟩ := d
      obtain ⟨hv', hlt', hrest'⟩ := Memory.wf_cons.1 hm'
      have hk : k = k' := by
        rcases Nat.lt_trichotomy k k' with hkk | hkk | hkk
        · have h1 := h k
          rw [Memory.read_of_lt (m := (k', v') :: rest') (a := k)] at h1
          · simp [Memory.read] at h1; exact absurd h1 hv
          · intro c hc
            rcases List.mem_cons.1 hc with e | e
            · simp [e, hkk]
            · have := hlt' c e; omega
        · exact hkk
        · have h1 := h k'
          rw [Memory.read_of_lt (m := (k, v) :: rest) (a := k')] at h1
          · simp [Memory.read] at h1; exact absurd h1.symm hv'
          · intro c hc
            rcases List.mem_cons.1 hc with e | e
            · simp [e, hkk]
            · have := hlt c e; omega
      subst hk
      have hvv : v = v' := by have := h k; simpa [Memory.read] using this
      subst hvv
      congr 1
      refine ih hrest hrest' (fun a => ?_)
      by_cases ha : k = a
      · subst ha
        rw [Memory.read_of_lt hlt, Memory.read_of_lt hlt']
      · have := h a
        simpa [Memory.read, ha] using this

theorem Memory.mem_ofBytesFrom {bs : List Byte} {a : Nat} {c : Host.Cell}
    (h : c ∈ Memory.ofBytesFrom a bs) : a ≤ c.1 ∧ c.1 < a + bs.length := by
  induction bs generalizing a with
  | nil => simp [Memory.ofBytesFrom] at h
  | cons b rest ih =>
    simp only [Memory.ofBytesFrom] at h
    simp only [List.length_cons]
    split at h
    · have := ih h; omega
    · rcases List.mem_cons.1 h with h | h
      · subst h; simp only; omega
      · have := ih h; omega

/-- A loaded buffer is canonical. -/
theorem Memory.wf_ofBytesFrom (bs : List Byte) (a : Nat) : (Memory.ofBytesFrom a bs).wf = true := by
  induction bs generalizing a with
  | nil => rfl
  | cons b rest ih =>
    simp only [Memory.ofBytesFrom]
    split
    · exact ih _
    · rename_i hb
      refine Memory.wf_cons.2 ⟨hb, fun c hc => ?_, ih _⟩
      have := Memory.mem_ofBytesFrom hc; omega

/-- Byte `i` of a loaded buffer is byte `i` of the list. -/
theorem Memory.read_ofBytesFrom (bs : List Byte) (a i : Nat) :
    (Memory.ofBytesFrom a bs).read (a + i) = bs.getD i 0#8 := by
  induction bs generalizing a i with
  | nil => simp [Memory.ofBytesFrom]
  | cons b rest ih =>
    simp only [Memory.ofBytesFrom]
    cases i with
    | zero =>
      split
      · rename_i hb
        rw [Memory.read_of_lt (fun c hc => ?_)]
        · simp [hb]
        · have := Memory.mem_ofBytesFrom hc; omega
      · simp [Memory.read]
    | succ j =>
      have e : a + (j + 1) = (a + 1) + j := by omega
      split
      · rw [e, ih]; simp
      · have hne : a ≠ a + (j + 1) := by omega
        simp only [Memory.read, hne, if_false]
        rw [e, ih]; simp

theorem Memory.wf_ofBytes (bs : List Byte) : (Memory.ofBytes bs).wf = true := Memory.wf_ofBytesFrom bs 0

theorem Memory.below_ofBytes (bs : List Byte) : (Memory.ofBytes bs).below bs.length = true := by
  simp only [Memory.below, List.all_eq_true, decide_eq_true_eq]
  intro c hc
  have := Memory.mem_ofBytesFrom hc; omega

theorem Memory.read_ofBytes (bs : List Byte) (i : Nat) : (Memory.ofBytes bs).read i = bs.getD i 0#8 := by
  have h := Memory.read_ofBytesFrom bs 0 i
  rwa [Nat.zero_add] at h

/-- Truncation keeps the canonical form. -/
theorem Memory.wf_truncate {m : Memory} (hm : m.wf = true) (n : Nat) : (m.truncate n).wf = true := by
  induction m with
  | nil => rfl
  | cons d rest ih =>
    obtain ⟨k, v⟩ := d
    obtain ⟨hv, hlt, hrest⟩ := Memory.wf_cons.1 hm
    simp only [Memory.truncate, List.filter_cons]
    split
    · exact Memory.wf_cons.2 ⟨hv, fun c hc => hlt c (List.mem_of_mem_filter hc), ih hrest⟩
    · exact ih hrest

theorem Memory.below_truncate (m : Memory) (n : Nat) : (m.truncate n).below n = true := by
  simp [Memory.truncate, Memory.below]

/-- A table image is canonical and has 256 entries. -/
theorem romImage_wf (byteAt : Nat → Byte) : Memory.wf (romImage byteAt) = true := by
  have key : ∀ l : List Nat, l.Pairwise (· < ·) → Memory.wf (l.filterMap (romCell byteAt)) = true := by
    intro l hl
    induction l with
    | nil => rfl
    | cons i rest ih =>
      obtain ⟨hi, hr⟩ := List.pairwise_cons.1 hl
      by_cases hb : byteAt i = 0#8
      · simp only [List.filterMap_cons, romCell, hb, if_true]
        exact ih hr
      · simp only [List.filterMap_cons, romCell, hb, if_false]
        refine Memory.wf_cons.2 ⟨hb, fun c hc => ?_, ih hr⟩
        obtain ⟨j, hj, hcj⟩ := List.mem_filterMap.1 hc
        simp only [romCell] at hcj
        split at hcj
        · exact absurd hcj (by simp)
        · cases hcj; exact hi j hj
  exact key _ List.pairwise_lt_range

theorem mem_romImage {byteAt : Nat → Byte} {c : Host.Cell} (h : c ∈ romImage byteAt) :
    c.1 < 256 ∧ c.2 = byteAt c.1 := by
  obtain ⟨j, hj, hcj⟩ := List.mem_filterMap.1 h
  simp only [romCell] at hcj
  split at hcj
  · exact absurd hcj (by simp)
  · cases hcj; exact ⟨List.mem_range.1 hj, rfl⟩

section
variable {len : Nat} {src : Memory} {sa da : Nat}

/-- An element copy keeps the canonical form. -/
theorem elemCopy_wf (n : Nat) {dst : Memory} (h : dst.wf = true) : (elemCopy len src sa da n dst).wf = true := by
  induction n with
  | zero => exact h
  | succ n ih =>
    simp only [elemCopy, copyByte]
    split
    · exact Memory.wf_write ih _ _
    · exact ih

/-- An element copy stays inside the buffer. -/
theorem elemCopy_below (n : Nat) {dst : Memory} (h : dst.below len = true) :
    (elemCopy len src sa da n dst).below len = true := by
  induction n with
  | zero => exact h
  | succ n ih =>
    simp only [elemCopy, copyByte]
    split
    · rename_i hi
      exact Memory.below_write ih hi.2 _
    · exact ih

/-- All an element copy does: byte `a` is the source byte where it is one of the element's bytes and both indices
are below `LEN`, and as before otherwise (spec/20_memory.md R51, R54). -/
theorem elemCopy_read (n : Nat) {dst : Memory} (h : dst.wf = true) (a : Nat) :
    (elemCopy len src sa da n dst).read a =
      if da ≤ a ∧ a < da + n ∧ a < len ∧ sa + (a - da) < len then src.read (sa + (a - da)) else dst.read a := by
  induction n with
  | zero =>
    simp only [elemCopy]
    rw [if_neg (by omega)]
  | succ n ih =>
    simp only [elemCopy, copyByte]
    by_cases ha : a = da + n
    · subst ha
      have e : da + n - da = n := by omega
      by_cases hc : sa + n < len ∧ da + n < len
      · rw [if_pos hc, Memory.read_write (elemCopy_wf n h), if_pos rfl,
          if_pos ⟨by omega, by omega, hc.2, by rw [e]; exact hc.1⟩, e]
      · rw [if_neg hc, ih, if_neg (by omega), if_neg (by rw [e]; omega)]
    · have hiff : (da ≤ a ∧ a < da + (n + 1) ∧ a < len ∧ sa + (a - da) < len) ↔
          (da ≤ a ∧ a < da + n ∧ a < len ∧ sa + (a - da) < len) := by omega
      split
      · rw [Memory.read_write (elemCopy_wf n h), if_neg ha, ih]
        simp only [hiff]
      · rw [ih]
        simp only [hiff]

end

end Sys2Proof.Machine
end

