-- ==== Sys2Proof/Laws/State.lean ====
section
/-! SUPPORT. One lemma for each field of each update of the state, true by `rfl`, so that no later proof unfolds a
record update. -/

namespace Sys2Proof.Machine

section
variable (s : State) (n : Nat)

@[simp] theorem setValue_descWidth : (State.setValue n s).descWidth = s.descWidth := rfl
@[simp] theorem setValue_descHeight : (State.setValue n s).descHeight = s.descHeight := rfl
@[simp] theorem setValue_descFormat : (State.setValue n s).descFormat = s.descFormat := rfl
@[simp] theorem setValue_descTileMode : (State.setValue n s).descTileMode = s.descTileMode := rfl
@[simp] theorem setValue_descSwizzle : (State.setValue n s).descSwizzle = s.descSwizzle := rfl
@[simp] theorem setValue_descPitch : (State.setValue n s).descPitch = s.descPitch := rfl
@[simp] theorem setValue_cmdOp : (State.setValue n s).cmdOp = s.cmdOp := rfl
@[simp] theorem setValue_oprX : (State.setValue n s).oprX = s.oprX := rfl
@[simp] theorem setValue_oprY : (State.setValue n s).oprY = s.oprY := rfl
@[simp] theorem setValue_oprZ : (State.setValue n s).oprZ = s.oprZ := rfl
@[simp] theorem setValue_oprBpp : (State.setValue n s).oprBpp = s.oprBpp := rfl
@[simp] theorem setValue_resValue : (State.setValue n s).resValue = n := rfl
@[simp] theorem setValue_resTiled : (State.setValue n s).resTiled = s.resTiled := rfl
@[simp] theorem setValue_resLinear : (State.setValue n s).resLinear = s.resLinear := rfl
@[simp] theorem setValue_resEsize : (State.setValue n s).resEsize = s.resEsize := rfl
@[simp] theorem setValue_scanY : (State.setValue n s).scanY = s.scanY := rfl
@[simp] theorem setValue_scanX : (State.setValue n s).scanX = s.scanX := rfl
@[simp] theorem setValue_src : (State.setValue n s).src = s.src := rfl
@[simp] theorem setValue_dst : (State.setValue n s).dst = s.dst := rfl
@[simp] theorem setValue_len : (State.setValue n s).len = s.len := rfl
@[simp] theorem setValue_fmtRom : (State.setValue n s).fmtRom = s.fmtRom := rfl
@[simp] theorem setValue_written : (State.setValue n s).written = s.written := rfl
@[simp] theorem setValue_freeCount : (State.setValue n s).freeCount = s.freeCount := rfl
@[simp] theorem setValue_host : (State.setValue n s).host = s.host := rfl
@[simp] theorem setValue_reading : (State.setValue n s).reading = s.reading := rfl

end

section
variable (s : State) (l e t : Nat)

@[simp] theorem setMapped_descWidth : (State.setMapped l e t s).descWidth = s.descWidth := rfl
@[simp] theorem setMapped_descHeight : (State.setMapped l e t s).descHeight = s.descHeight := rfl
@[simp] theorem setMapped_descFormat : (State.setMapped l e t s).descFormat = s.descFormat := rfl
@[simp] theorem setMapped_descTileMode : (State.setMapped l e t s).descTileMode = s.descTileMode := rfl
@[simp] theorem setMapped_descSwizzle : (State.setMapped l e t s).descSwizzle = s.descSwizzle := rfl
@[simp] theorem setMapped_descPitch : (State.setMapped l e t s).descPitch = s.descPitch := rfl
@[simp] theorem setMapped_cmdOp : (State.setMapped l e t s).cmdOp = s.cmdOp := rfl
@[simp] theorem setMapped_oprX : (State.setMapped l e t s).oprX = s.oprX := rfl
@[simp] theorem setMapped_oprY : (State.setMapped l e t s).oprY = s.oprY := rfl
@[simp] theorem setMapped_oprZ : (State.setMapped l e t s).oprZ = s.oprZ := rfl
@[simp] theorem setMapped_oprBpp : (State.setMapped l e t s).oprBpp = s.oprBpp := rfl
@[simp] theorem setMapped_resValue : (State.setMapped l e t s).resValue = s.resValue := rfl
@[simp] theorem setMapped_resTiled : (State.setMapped l e t s).resTiled = t := rfl
@[simp] theorem setMapped_resLinear : (State.setMapped l e t s).resLinear = l := rfl
@[simp] theorem setMapped_resEsize : (State.setMapped l e t s).resEsize = e := rfl
@[simp] theorem setMapped_scanY : (State.setMapped l e t s).scanY = s.scanY := rfl
@[simp] theorem setMapped_scanX : (State.setMapped l e t s).scanX = s.scanX := rfl
@[simp] theorem setMapped_src : (State.setMapped l e t s).src = s.src := rfl
@[simp] theorem setMapped_dst : (State.setMapped l e t s).dst = s.dst := rfl
@[simp] theorem setMapped_len : (State.setMapped l e t s).len = s.len := rfl
@[simp] theorem setMapped_fmtRom : (State.setMapped l e t s).fmtRom = s.fmtRom := rfl
@[simp] theorem setMapped_written : (State.setMapped l e t s).written = s.written := rfl
@[simp] theorem setMapped_freeCount : (State.setMapped l e t s).freeCount = s.freeCount := rfl
@[simp] theorem setMapped_host : (State.setMapped l e t s).host = s.host := rfl
@[simp] theorem setMapped_reading : (State.setMapped l e t s).reading = s.reading := rfl

end

section
variable (s : State) (d : Memory) (y x : Nat)

@[simp] theorem endTransform_descWidth : (State.endTransform d y x s).descWidth = s.descWidth := rfl
@[simp] theorem endTransform_descHeight : (State.endTransform d y x s).descHeight = s.descHeight := rfl
@[simp] theorem endTransform_descFormat : (State.endTransform d y x s).descFormat = s.descFormat := rfl
@[simp] theorem endTransform_descTileMode : (State.endTransform d y x s).descTileMode = s.descTileMode := rfl
@[simp] theorem endTransform_descSwizzle : (State.endTransform d y x s).descSwizzle = s.descSwizzle := rfl
@[simp] theorem endTransform_descPitch : (State.endTransform d y x s).descPitch = s.descPitch := rfl
@[simp] theorem endTransform_cmdOp : (State.endTransform d y x s).cmdOp = s.cmdOp := rfl
@[simp] theorem endTransform_oprX : (State.endTransform d y x s).oprX = Config.freeWord s.freeCount := rfl
@[simp] theorem endTransform_oprY : (State.endTransform d y x s).oprY = Config.freeWord (s.freeCount + 1) := rfl
@[simp] theorem endTransform_oprZ : (State.endTransform d y x s).oprZ = s.oprZ := rfl
@[simp] theorem endTransform_oprBpp : (State.endTransform d y x s).oprBpp = s.oprBpp := rfl
@[simp] theorem endTransform_resValue : (State.endTransform d y x s).resValue = s.resValue := rfl
@[simp] theorem endTransform_resTiled : (State.endTransform d y x s).resTiled = s.resTiled := rfl
@[simp] theorem endTransform_resLinear : (State.endTransform d y x s).resLinear = s.resLinear := rfl
@[simp] theorem endTransform_resEsize : (State.endTransform d y x s).resEsize = s.resEsize := rfl
@[simp] theorem endTransform_scanY : (State.endTransform d y x s).scanY = BitVec.ofNat 32 y := rfl
@[simp] theorem endTransform_scanX : (State.endTransform d y x s).scanX = BitVec.ofNat 32 x := rfl
@[simp] theorem endTransform_src : (State.endTransform d y x s).src = s.src := rfl
@[simp] theorem endTransform_dst : (State.endTransform d y x s).dst = d := rfl
@[simp] theorem endTransform_len : (State.endTransform d y x s).len = s.len := rfl
@[simp] theorem endTransform_fmtRom : (State.endTransform d y x s).fmtRom = s.fmtRom := rfl
@[simp] theorem endTransform_written : (State.endTransform d y x s).written = s.written := rfl
@[simp] theorem endTransform_freeCount : (State.endTransform d y x s).freeCount = s.freeCount + 2 := rfl
@[simp] theorem endTransform_host : (State.endTransform d y x s).host = s.host := rfl
@[simp] theorem endTransform_reading : (State.endTransform d y x s).reading = s.reading := rfl

end

section
variable (s : State) (r : BitVec 4)

@[simp] theorem markWritten_descWidth : (markWritten s r).descWidth = s.descWidth := rfl
@[simp] theorem markWritten_descHeight : (markWritten s r).descHeight = s.descHeight := rfl
@[simp] theorem markWritten_descFormat : (markWritten s r).descFormat = s.descFormat := rfl
@[simp] theorem markWritten_descTileMode : (markWritten s r).descTileMode = s.descTileMode := rfl
@[simp] theorem markWritten_descSwizzle : (markWritten s r).descSwizzle = s.descSwizzle := rfl
@[simp] theorem markWritten_descPitch : (markWritten s r).descPitch = s.descPitch := rfl
@[simp] theorem markWritten_cmdOp : (markWritten s r).cmdOp = s.cmdOp := rfl
@[simp] theorem markWritten_oprX : (markWritten s r).oprX = s.oprX := rfl
@[simp] theorem markWritten_oprY : (markWritten s r).oprY = s.oprY := rfl
@[simp] theorem markWritten_oprZ : (markWritten s r).oprZ = s.oprZ := rfl
@[simp] theorem markWritten_oprBpp : (markWritten s r).oprBpp = s.oprBpp := rfl
@[simp] theorem markWritten_resValue : (markWritten s r).resValue = s.resValue := rfl
@[simp] theorem markWritten_resTiled : (markWritten s r).resTiled = s.resTiled := rfl
@[simp] theorem markWritten_resLinear : (markWritten s r).resLinear = s.resLinear := rfl
@[simp] theorem markWritten_resEsize : (markWritten s r).resEsize = s.resEsize := rfl
@[simp] theorem markWritten_scanY : (markWritten s r).scanY = s.scanY := rfl
@[simp] theorem markWritten_scanX : (markWritten s r).scanX = s.scanX := rfl
@[simp] theorem markWritten_src : (markWritten s r).src = s.src := rfl
@[simp] theorem markWritten_dst : (markWritten s r).dst = s.dst := rfl
@[simp] theorem markWritten_len : (markWritten s r).len = s.len := rfl
@[simp] theorem markWritten_fmtRom : (markWritten s r).fmtRom = s.fmtRom := rfl
@[simp] theorem markWritten_written : (markWritten s r).written = s.written ||| (1#16 <<< r.toNat) := rfl
@[simp] theorem markWritten_freeCount : (markWritten s r).freeCount = s.freeCount := rfl
@[simp] theorem markWritten_host : (markWritten s r).host = s.host := rfl
@[simp] theorem markWritten_reading : (markWritten s r).reading = s.reading := rfl

end

section
variable (s : State) (bs : List Byte)

@[simp] theorem hostLoad_descWidth : (hostLoad bs s).descWidth = s.descWidth := rfl
@[simp] theorem hostLoad_descHeight : (hostLoad bs s).descHeight = s.descHeight := rfl
@[simp] theorem hostLoad_descFormat : (hostLoad bs s).descFormat = s.descFormat := rfl
@[simp] theorem hostLoad_descTileMode : (hostLoad bs s).descTileMode = s.descTileMode := rfl
@[simp] theorem hostLoad_descSwizzle : (hostLoad bs s).descSwizzle = s.descSwizzle := rfl
@[simp] theorem hostLoad_descPitch : (hostLoad bs s).descPitch = s.descPitch := rfl
@[simp] theorem hostLoad_cmdOp : (hostLoad bs s).cmdOp = s.cmdOp := rfl
@[simp] theorem hostLoad_oprX : (hostLoad bs s).oprX = s.oprX := rfl
@[simp] theorem hostLoad_oprY : (hostLoad bs s).oprY = s.oprY := rfl
@[simp] theorem hostLoad_oprZ : (hostLoad bs s).oprZ = s.oprZ := rfl
@[simp] theorem hostLoad_oprBpp : (hostLoad bs s).oprBpp = s.oprBpp := rfl
@[simp] theorem hostLoad_resValue : (hostLoad bs s).resValue = s.resValue := rfl
@[simp] theorem hostLoad_resTiled : (hostLoad bs s).resTiled = s.resTiled := rfl
@[simp] theorem hostLoad_resLinear : (hostLoad bs s).resLinear = s.resLinear := rfl
@[simp] theorem hostLoad_resEsize : (hostLoad bs s).resEsize = s.resEsize := rfl
@[simp] theorem hostLoad_scanY : (hostLoad bs s).scanY = s.scanY := rfl
@[simp] theorem hostLoad_scanX : (hostLoad bs s).scanX = s.scanX := rfl
@[simp] theorem hostLoad_src : (hostLoad bs s).src = Memory.ofBytes bs := rfl
@[simp] theorem hostLoad_dst : (hostLoad bs s).dst = s.dst.truncate bs.length := rfl
@[simp] theorem hostLoad_len : (hostLoad bs s).len = bs.length := rfl
@[simp] theorem hostLoad_fmtRom : (hostLoad bs s).fmtRom = s.fmtRom := rfl
@[simp] theorem hostLoad_written : (hostLoad bs s).written = s.written := rfl
@[simp] theorem hostLoad_freeCount : (hostLoad bs s).freeCount = s.freeCount := rfl
@[simp] theorem hostLoad_host : (hostLoad bs s).host = s.host := rfl
@[simp] theorem hostLoad_reading : (hostLoad bs s).reading = s.reading := rfl

end

section
variable (s : State) (r : BitVec 4) (v : Nat)

theorem writeRegister_descWidth :
    (writeRegister s r v).descWidth = if r = 0#4 then BitVec.ofNat 32 v else s.descWidth := by
  rcases r with ⟨k, hk⟩
  interval_cases k <;> rfl
theorem writeRegister_descHeight :
    (writeRegister s r v).descHeight = if r = 1#4 then BitVec.ofNat 32 v else s.descHeight := by
  rcases r with ⟨k, hk⟩
  interval_cases k <;> rfl
theorem writeRegister_descFormat :
    (writeRegister s r v).descFormat = if r = 2#4 then BitVec.ofNat 32 v else s.descFormat := by
  rcases r with ⟨k, hk⟩
  interval_cases k <;> rfl
theorem writeRegister_descTileMode :
    (writeRegister s r v).descTileMode = if r = 3#4 then BitVec.ofNat 5 v else s.descTileMode := by
  rcases r with ⟨k, hk⟩
  interval_cases k <;> rfl
theorem writeRegister_descSwizzle :
    (writeRegister s r v).descSwizzle = if r = 4#4 then BitVec.ofNat 32 v else s.descSwizzle := by
  rcases r with ⟨k, hk⟩
  interval_cases k <;> rfl
theorem writeRegister_descPitch :
    (writeRegister s r v).descPitch = if r = 5#4 then BitVec.ofNat 32 v else s.descPitch := by
  rcases r with ⟨k, hk⟩
  interval_cases k <;> rfl
theorem writeRegister_cmdOp :
    (writeRegister s r v).cmdOp = if r = 6#4 then BitVec.ofNat 4 v else s.cmdOp := by
  rcases r with ⟨k, hk⟩
  interval_cases k <;> rfl
theorem writeRegister_oprX :
    (writeRegister s r v).oprX = if r = 8#4 then BitVec.ofNat 32 v else s.oprX := by
  rcases r with ⟨k, hk⟩
  interval_cases k <;> rfl
theorem writeRegister_oprY :
    (writeRegister s r v).oprY = if r = 9#4 then BitVec.ofNat 32 v else s.oprY := by
  rcases r with ⟨k, hk⟩
  interval_cases k <;> rfl
theorem writeRegister_oprZ :
    (writeRegister s r v).oprZ = if r = 10#4 then BitVec.ofNat 3 v else s.oprZ := by
  rcases r with ⟨k, hk⟩
  interval_cases k <;> rfl
theorem writeRegister_oprBpp :
    (writeRegister s r v).oprBpp = if r = 11#4 then BitVec.ofNat 8 v else s.oprBpp := by
  rcases r with ⟨k, hk⟩
  interval_cases k <;> rfl
@[simp] theorem writeRegister_resValue : (writeRegister s r v).resValue = s.resValue := by
  unfold writeRegister; split <;> rfl
@[simp] theorem writeRegister_resTiled : (writeRegister s r v).resTiled = s.resTiled := by
  unfold writeRegister; split <;> rfl
@[simp] theorem writeRegister_resLinear : (writeRegister s r v).resLinear = s.resLinear := by
  unfold writeRegister; split <;> rfl
@[simp] theorem writeRegister_resEsize : (writeRegister s r v).resEsize = s.resEsize := by
  unfold writeRegister; split <;> rfl
@[simp] theorem writeRegister_scanY : (writeRegister s r v).scanY = s.scanY := by
  unfold writeRegister; split <;> rfl
@[simp] theorem writeRegister_scanX : (writeRegister s r v).scanX = s.scanX := by
  unfold writeRegister; split <;> rfl
@[simp] theorem writeRegister_src : (writeRegister s r v).src = s.src := by
  unfold writeRegister; split <;> rfl
@[simp] theorem writeRegister_dst : (writeRegister s r v).dst = s.dst := by
  unfold writeRegister; split <;> rfl
@[simp] theorem writeRegister_len : (writeRegister s r v).len = s.len := by
  unfold writeRegister; split <;> rfl
@[simp] theorem writeRegister_fmtRom : (writeRegister s r v).fmtRom = s.fmtRom := by
  unfold writeRegister; split <;> rfl
@[simp] theorem writeRegister_written : (writeRegister s r v).written = s.written := by
  unfold writeRegister; split <;> rfl
@[simp] theorem writeRegister_freeCount : (writeRegister s r v).freeCount = s.freeCount := by
  unfold writeRegister; split <;> rfl
@[simp] theorem writeRegister_host : (writeRegister s r v).host = s.host := by
  unfold writeRegister; split <;> rfl
@[simp] theorem writeRegister_reading : (writeRegister s r v).reading = s.reading := by
  unfold writeRegister; split <;> rfl

end

section
variable (s : State) (op : BitVec 4)

@[simp] theorem aboutToStart_descWidth : (State.aboutToStart s op).descWidth = s.descWidth := rfl
@[simp] theorem aboutToStart_descHeight : (State.aboutToStart s op).descHeight = s.descHeight := rfl
@[simp] theorem aboutToStart_descFormat : (State.aboutToStart s op).descFormat = s.descFormat := rfl
@[simp] theorem aboutToStart_descTileMode : (State.aboutToStart s op).descTileMode = s.descTileMode := rfl
@[simp] theorem aboutToStart_descSwizzle : (State.aboutToStart s op).descSwizzle = s.descSwizzle := rfl
@[simp] theorem aboutToStart_descPitch : (State.aboutToStart s op).descPitch = s.descPitch := rfl
@[simp] theorem aboutToStart_cmdOp : (State.aboutToStart s op).cmdOp = op := rfl
@[simp] theorem aboutToStart_oprX : (State.aboutToStart s op).oprX = s.oprX := rfl
@[simp] theorem aboutToStart_oprY : (State.aboutToStart s op).oprY = s.oprY := rfl
@[simp] theorem aboutToStart_oprZ : (State.aboutToStart s op).oprZ = s.oprZ := rfl
@[simp] theorem aboutToStart_oprBpp : (State.aboutToStart s op).oprBpp = s.oprBpp := rfl
@[simp] theorem aboutToStart_resValue : (State.aboutToStart s op).resValue = s.resValue := rfl
@[simp] theorem aboutToStart_resTiled : (State.aboutToStart s op).resTiled = s.resTiled := rfl
@[simp] theorem aboutToStart_resLinear : (State.aboutToStart s op).resLinear = s.resLinear := rfl
@[simp] theorem aboutToStart_resEsize : (State.aboutToStart s op).resEsize = s.resEsize := rfl
@[simp] theorem aboutToStart_scanY : (State.aboutToStart s op).scanY = s.scanY := rfl
@[simp] theorem aboutToStart_scanX : (State.aboutToStart s op).scanX = s.scanX := rfl
@[simp] theorem aboutToStart_src : (State.aboutToStart s op).src = s.src := rfl
@[simp] theorem aboutToStart_dst : (State.aboutToStart s op).dst = s.dst := rfl
@[simp] theorem aboutToStart_len : (State.aboutToStart s op).len = s.len := rfl
@[simp] theorem aboutToStart_fmtRom : (State.aboutToStart s op).fmtRom = s.fmtRom := rfl
@[simp] theorem aboutToStart_written : (State.aboutToStart s op).written = s.written ||| marksOf (6#4 :: operandRegisters (decodeOp op)) := rfl
@[simp] theorem aboutToStart_freeCount : (State.aboutToStart s op).freeCount = s.freeCount := rfl
@[simp] theorem aboutToStart_host : (State.aboutToStart s op).host = .start :: s.host := rfl
@[simp] theorem aboutToStart_reading : (State.aboutToStart s op).reading = s.reading := rfl

end

end Sys2Proof.Machine
end

