-- ==== Sys2Proof/Laws/Ops.lean ====
section
/-! SUPPORT. One lemma for each shared operation that says once everything it can do; later proofs cite these in
the place of the definitions. -/

namespace Sys2Proof.Machine

/-! ## Delivering a result -/

/-- The two ways a delivery has a next state. -/
theorem deliver_next_iff {put : Nat → State → State} {c : Calc} {s t : State} :
    deliver put c s = .next t ↔
      (∃ n, c = .value n ∧ put n s = t)
      ∨ (c = .unspecified ∧ put (Config.freeNat s.freeCount) { s with freeCount := s.freeCount + 1 } = t) := by
  cases c <;> simp [deliver]

theorem deliver_fault_iff {put : Nat → State → State} {c : Calc} {s : State} {r : Fault} :
    deliver put c s = .fault r ↔ c = .neverEnds ∧ r = .swapWidthNeverEnds := by
  cases c <;> simp [deliver, eq_comm]

theorem deliver_not_refused {put : Nat → State → State} {c : Calc} {s : State} {r : Refusal} :
    deliver put c s ≠ .refused r := by
  cases c <;> simp [deliver]

@[simp] theorem calc_map_value (f : Nat → Nat) (n : Nat) : (Calc.value n).map f = .value (f n) := rfl
@[simp] theorem calc_map_unspecified (f : Nat → Nat) : Calc.unspecified.map f = .unspecified := rfl
@[simp] theorem calc_map_neverEnds (f : Nat → Nat) : Calc.neverEnds.map f = .neverEnds := rfl

/-! ## Bank-swap width -/

theorem bankSwapWidth_ineligible {tm : BitVec 5} (h : bankSwapEligible tm = false) (bpp pitch : Nat) :
    bankSwapWidth tm bpp pitch = .value 0 := by simp [bankSwapWidth, h]

theorem bankSwapWidth_zero_bpp {tm : BitVec 5} (h : bankSwapEligible tm = true) (pitch : Nat) :
    bankSwapWidth tm 0 pitch = .unspecified := by simp [bankSwapWidth, h]

theorem bankSwapWidth_zero_pitch {tm : BitVec 5} (h : bankSwapEligible tm = true) {bpp : Nat} (hb : 0 < bpp) :
    bankSwapWidth tm bpp 0 = .neverEnds := by
  have : bpp ≠ 0 := by omega
  simp [bankSwapWidth, h, this]

theorem bankSwapWidth_value {tm : BitVec 5} (h : bankSwapEligible tm = true) {bpp pitch : Nat} (hb : 0 < bpp)
    (hp : 0 < pitch) :
    bankSwapWidth tm bpp pitch = .value (halveWhile (clampedSwapWidth tm bpp) pitch (clampedSwapWidth tm bpp)) := by
  have h1 : bpp ≠ 0 := by omega
  have h2 : pitch ≠ 0 := by omega
  simp [bankSwapWidth, h, h1, h2]

theorem bankSwapWidth_neverEnds_iff {tm : BitVec 5} {bpp pitch : Nat} :
    bankSwapWidth tm bpp pitch = .neverEnds ↔ swapWidthHangs tm bpp pitch := by
  unfold bankSwapWidth swapWidthHangs
  split
  · simp_all
  · split
    · simp_all
    · split
      · simp_all [Nat.pos_iff_ne_zero]
      · simp_all

theorem bankSwapWidth_unspecified_iff {tm : BitVec 5} {bpp pitch : Nat} :
    bankSwapWidth tm bpp pitch = .unspecified ↔ swapWidthUnspecified tm bpp := by
  unfold bankSwapWidth swapWidthUnspecified
  split
  · simp_all
  · split
    · simp_all
    · split <;> simp_all

/-- `slicesPerTile` is 1: no quotient of 1 is above it (spec/41_tile_mode_metadata.md R127). -/
theorem slicesPerTile_eq_one (bpp : Nat) : slicesPerTile bpp = 1 := by
  simp only [slicesPerTile, Config.splitSize]
  split
  · rfl
  · rename_i hn
    have hq : 1 / (2048 / (8 * bpp)) ≤ 1 := Nat.div_le_self _ _
    omega

/-! ## Macro-tile calculator and dispatch -/

theorem addrMacro_neverEnds_iff {x y bpp pitch height : Nat} {tm : BitVec 5} {ps bs : Nat} :
    addrMacro x y bpp pitch height tm ps bs = .neverEnds ↔ swapWidthHangs tm bpp pitch := by
  rw [← bankSwapWidth_neverEnds_iff]
  unfold addrMacro
  cases he : bankSwapEligible tm
  · simp [bankSwapWidth_ineligible he]
  · cases hw : bankSwapWidth tm bpp pitch <;> simp

theorem addrMacro_unspecified_iff {x y bpp pitch height : Nat} {tm : BitVec 5} {ps bs : Nat} :
    addrMacro x y bpp pitch height tm ps bs = .unspecified ↔ swapWidthUnspecified tm bpp := by
  rw [← bankSwapWidth_unspecified_iff (pitch := pitch)]
  unfold addrMacro
  cases he : bankSwapEligible tm
  · simp [bankSwapWidth_ineligible he]
  · cases hw : bankSwapWidth tm bpp pitch <;> simp

/-- No linear or micro-tiled code is bank-swap eligible. -/
theorem not_eligible_of_mem_linear_or_micro {tm : BitVec 5} (h : tm ∈ linearCodes ∨ tm ∈ microCodes) :
    bankSwapEligible tm = false := by
  revert tm; decide

/-- The address of an element never completes exactly on the operands of R136. -/
theorem tiledOffset_neverEnds_iff {p : Plan} {x y : Nat} :
    tiledOffset p x y = .neverEnds ↔ swapWidthHangs p.tileMode p.bpp p.pitch := by
  unfold tiledOffset
  split
  · rename_i h
    simp [swapWidthHangs, not_eligible_of_mem_linear_or_micro (.inl h)]
  · split
    · rename_i h
      simp [swapWidthHangs, not_eligible_of_mem_linear_or_micro (.inr h)]
    · exact addrMacro_neverEnds_iff

/-- The address of an element is unspecified exactly on the operands of R135. -/
theorem tiledOffset_unspecified_iff {p : Plan} {x y : Nat} :
    tiledOffset p x y = .unspecified ↔ swapWidthUnspecified p.tileMode p.bpp := by
  unfold tiledOffset
  split
  · rename_i h
    simp [swapWidthUnspecified, not_eligible_of_mem_linear_or_micro (.inl h)]
  · split
    · rename_i h
      simp [swapWidthUnspecified, not_eligible_of_mem_linear_or_micro (.inr h)]
    · exact addrMacro_unspecified_iff

/-! ## The element loop -/

section
variable {dir : Direction} {p : Plan} {len : Nat} {src : Memory}

/-- The two ways one element is copied. -/
theorem copyElement_some {c : Scan} {dst d : Memory} (h : copyElement dir p len src c dst = some d) :
    (∃ t sa da, tiledOffset p c.x c.y = .value t
      ∧ (sa, da) = (match dir with
        | .toTiled => (linearOffset p c.x c.y, t)
        | .toLinear => (t, linearOffset p c.x c.y))
      ∧ d = elemCopy len src sa da p.elementSize dst)
    ∨ (tiledOffset p c.x c.y = .unspecified ∧ d = dst) := by
  unfold copyElement at h
  split at h
  · rename_i t ht
    cases dir
    · exact .inl ⟨t, _, _, ht, rfl, (Option.some.inj h).symm⟩
    · exact .inl ⟨t, _, _, ht, rfl, (Option.some.inj h).symm⟩
  · rename_i ht
    exact .inr ⟨ht, (Option.some.inj h).symm⟩
  · cases h

theorem copyElement_none_iff {c : Scan} {dst : Memory} :
    copyElement dir p len src c dst = none ↔ tiledOffset p c.x c.y = .neverEnds := by
  unfold copyElement
  cases tiledOffset p c.x c.y <;> cases dir <;> simp

/-- What one element's copy keeps, the whole loop keeps. -/
theorem copyElements_induction {P : Memory → Prop}
    (hstep : ∀ c dst d, P dst → copyElement dir p len src c dst = some d → P d) :
    ∀ n c dst c' d, P dst → copyElements dir p len src n c dst = some (c', d) → P d := by
  intro n
  induction n with
  | zero =>
    intro c dst c' d hP h
    simp only [copyElements, Option.some.injEq, Prod.mk.injEq] at h
    exact h.2 ▸ hP
  | succ n ih =>
    intro c dst c' d hP h
    simp only [copyElements] at h
    split at h
    · rename_i d1 h1
      exact ih _ _ _ _ (hstep _ _ _ hP h1) h
    · cases h

/-- The loop keeps the canonical form. -/
theorem copyElements_wf {n : Nat} {c c' : Scan} {dst d : Memory} (hd : dst.wf = true)
    (h : copyElements dir p len src n c dst = some (c', d)) : d.wf = true := by
  refine copyElements_induction (P := fun m => m.wf = true) (fun c dst d hd h => ?_) n c dst c' d hd h
  rcases copyElement_some h with ⟨_, _, _, _, _, rfl⟩ | ⟨_, rfl⟩
  · exact elemCopy_wf _ hd
  · exact hd

/-- The loop stays inside the buffer. -/
theorem copyElements_below {n : Nat} {c c' : Scan} {dst d : Memory} (hd : dst.below len = true)
    (h : copyElements dir p len src n c dst = some (c', d)) : d.below len = true := by
  refine copyElements_induction (P := fun m => m.below len = true) (fun c dst d hd h => ?_) n c dst c' d hd h
  rcases copyElement_some h with ⟨_, _, _, _, _, rfl⟩ | ⟨_, rfl⟩
  · exact elemCopy_below _ hd
  · exact hd

/-- One element at a time: the loop for `n + m` elements is the loop for `n` and then for `m`. -/
theorem copyElements_add (n m : Nat) (c : Scan) (dst : Memory) :
    copyElements dir p len src (n + m) c dst =
      (copyElements dir p len src n c dst).bind (fun q => copyElements dir p len src m q.1 q.2) := by
  induction n generalizing c dst with
  | zero => simp [copyElements]
  | succ n ih =>
    rw [Nat.succ_add]
    simp only [copyElements]
    split
    · rw [ih]
    · rfl

/-- The scan position after `k` elements of a row-major walk (spec/10_state.md R30). -/
theorem scanNext_row_major {w : Nat} (hw : 0 < w) (k : Nat) :
    scanNext w { y := k / w, x := k % w } = { y := (k + 1) / w, x := (k + 1) % w } := by
  have hlt := Nat.mod_lt k hw
  have hk := Nat.div_add_mod k w
  unfold scanNext
  split
  · rename_i h
    have e : k + 1 = (k % w + 1) + w * (k / w) := by simp only at h; omega
    rw [e, Nat.add_mul_div_left _ _ hw, Nat.add_mul_mod_self_left, Nat.div_eq_of_lt h, Nat.mod_eq_of_lt h]
    simp
  · rename_i h
    have hx : k % w + 1 = w := by simp only at h; omega
    have e : k + 1 = w * (k / w + 1) := by rw [Nat.mul_add]; omega
    rw [e, Nat.mul_div_cancel_left _ hw, Nat.mul_mod_right]

end

/-! ## Transforms and steps -/

/-- The one way a transform has a next state. -/
theorem transform_next_iff {dir : Direction} {s t : State} :
    transform dir s = .next t ↔ ∃ c d,
      copyElements dir (planOf s) s.len s.src ((planOf s).effWidth * (planOf s).effHeight) { y := 0, x := 0 } []
        = some (c, d) ∧ s.endTransform d c.y c.x = t := by
  unfold transform
  simp only
  split
  · rename_i c d h
    constructor
    · intro e; exact ⟨c, d, h, by simpa using e⟩
    · rintro ⟨c', d', h', e⟩
      rw [h] at h'
      obtain ⟨rfl, rfl⟩ := Prod.mk.inj (Option.some.inj h')
      rw [e]
  · rename_i h
    constructor
    · intro e; cases e
    · rintro ⟨c, d, h', _⟩
      rw [h] at h'; cases h'

/-- The ways a `SET` has a next state: one. -/
theorem hostSet_next_iff {n : BitVec 4} {v : Nat} {s t : State} :
    hostSet n v s = .next t ↔
      ∃ w, hostWriteWidth n = some w ∧ v < 2 ^ w ∧ markWritten (writeRegister s n v) n = t := by
  unfold hostSet
  cases hostWriteWidth n with
  | none => simp
  | some w =>
    by_cases hv : v < 2 ^ w <;> simp [hv]

/-- The ways a `GET` has a next state. -/
theorem hostGet_next_iff {src : Source} {s t : State} :
    hostGet src s = .next t ↔
      (src = .dst ∧ { s with reading := .bytes (s.dst.toBytes s.len) } = t)
      ∨ (∃ n v, src = .reg n ∧ readRegister s n = some v ∧ { s with reading := .value v } = t) := by
  cases src with
  | dst => simp [hostGet]
  | reg n =>
    simp only [hostGet]
    cases h : readRegister s n <;> simp [h]

/-! ## Starts -/

/-- The test of a start, register by register. -/
theorem hostWroteOperands_iff {i : Instr} {s : State} :
    hostWroteOperands i s = true ↔ ∀ n ∈ startRegisters i s, s.written.getLsbD n.toNat = true := by
  simp [hostWroteOperands, wasWritten]

/-- The registers a start reads depend on the tile mode alone. -/
theorem startRegisters_congr {i : Instr} {s t : State} (h : s.descTileMode = t.descTileMode) :
    startRegisters i s = startRegisters i t := by
  unfold startRegisters unreadOperands
  rw [h]

/-- A start reads `CMD.OP` and operands only. -/
theorem startRegisters_subset {i : Instr} {s : State} {n : BitVec 4} (h : n ∈ startRegisters i s) :
    n ∈ 6#4 :: operandRegisters i := by
  rcases List.mem_cons.mp h with rfl | h
  · exact List.mem_cons_self
  · exact List.mem_cons_of_mem _ (List.mem_filter.mp h).1

/-- The test reads the marks and the tile mode alone. -/
theorem hostWroteOperands_congr {i : Instr} {s t : State} (h : s.written = t.written)
    (ht : s.descTileMode = t.descTileMode) : hostWroteOperands i s = hostWroteOperands i t := by
  unfold hostWroteOperands wasWritten
  rw [h, startRegisters_congr ht]

/-- The one way a start has a next state. -/
theorem startOperation_next_iff {s t : State} :
    startOperation s = .next t ↔
      hostWroteOperands (decodeOp s.cmdOp) s = true ∧ exec (decodeOp s.cmdOp) s = .next t := by
  unfold startOperation
  cases hostWroteOperands (decodeOp s.cmdOp) s <;> simp

/-- A start whose registers are written is the run of its operation. -/
theorem startOperation_written {s : State} (h : hostWroteOperands (decodeOp s.cmdOp) s = true) :
    startOperation s = exec (decodeOp s.cmdOp) s := by simp [startOperation, h]

/-- A start with a register never written is refused (spec/10_state.md R39). -/
theorem startOperation_unwritten {s : State} (h : hostWroteOperands (decodeOp s.cmdOp) s = false) :
    startOperation s = .refused .registerNeverWritten := by simp [startOperation, h]

/-- The marks of a list hold the bit of each of its members. -/
theorem marksOf_getLsbD {numbers : List (BitVec 4)} {n : BitVec 4} (h : n ∈ numbers) :
    (marksOf numbers).getLsbD n.toNat = true := by
  induction numbers with
  | nil => cases h
  | cons m rest ih =>
    have hn : n.toNat < 16 := n.isLt
    simp only [marksOf, List.foldr_cons, BitVec.getLsbD_or, Bool.or_eq_true]
    rcases List.mem_cons.mp h with rfl | h
    · exact .inl (by simp [hn])
    · exact .inr (ih h)

/-- The very next step from `aboutToStart` runs the operation. -/
theorem step_aboutToStart (s : State) (op : BitVec 4) :
    step (s.aboutToStart op) = exec (decodeOp op) { s.aboutToStart op with host := s.host } := by
  refine startOperation_written (s := { s.aboutToStart op with host := s.host }) (hostWroteOperands_iff.mpr ?_)
  intro n hn
  show (s.written ||| marksOf (6#4 :: operandRegisters (decodeOp op))).getLsbD n.toNat = true
  rw [BitVec.getLsbD_or, marksOf_getLsbD (numbers := 6#4 :: operandRegisters (decodeOp op)) (startRegisters_subset hn),
    Bool.or_true]

/-- Everything a step with a next state can be: idle, or one host move. -/
theorem step_next_cases {s t : State} (h : step s = .next t) :
    (s.host = [] ∧ t = s)
    ∨ (∃ n v rest, s.host = .set n v :: rest ∧ hostSet n v { s with host := rest } = .next t)
    ∨ (∃ bs rest, s.host = .load bs :: rest ∧ t = hostLoad bs { s with host := rest })
    ∨ (∃ src rest, s.host = .get src :: rest ∧ hostGet src { s with host := rest } = .next t)
    ∨ (∃ rest, s.host = .start :: rest ∧ hostWroteOperands (decodeOp s.cmdOp) s = true
        ∧ exec (decodeOp s.cmdOp) { s with host := rest } = .next t)
    ∨ (∃ op rest, s.host = .run op :: rest
        ∧ hostWroteOperands (decodeOp op) (markWritten { s with host := rest, cmdOp := op } 6#4) = true
        ∧ exec (decodeOp op) (markWritten { s with host := rest, cmdOp := op } 6#4) = .next t) := by
  unfold step at h
  split at h
  · rename_i hh; exact .inl ⟨hh, by simpa using h.symm⟩
  · rename_i n v rest hh; exact .inr (.inl ⟨n, v, rest, hh, h⟩)
  · rename_i bs rest hh; exact .inr (.inr (.inl ⟨bs, rest, hh, by simpa using h.symm⟩))
  · rename_i src rest hh; exact .inr (.inr (.inr (.inl ⟨src, rest, hh, h⟩)))
  · rename_i rest hh; exact .inr (.inr (.inr (.inr (.inl ⟨rest, hh, startOperation_next_iff.mp h⟩))))
  · rename_i op rest hh; exact .inr (.inr (.inr (.inr (.inr ⟨op, rest, hh, startOperation_next_iff.mp h⟩))))

/-! ## The parameter as an argument -/

/-- The one way a meaning has a next state for a given parameter. -/
theorem execFor_next_iff {p : Parameters} {i : Instr} {r r' : BlockRun} :
    execFor p i r = .next r' ↔ ∃ t, exec i { toParameters := p, toBlockRun := r } = .next t ∧ t.toBlockRun = r' := by
  unfold execFor
  cases exec i { toParameters := p, toBlockRun := r } <;> simp

/-- The one way a step has a next state for a given parameter. -/
theorem stepFor_next_iff {p : Parameters} {r r' : BlockRun} :
    stepFor p r = .next r' ↔ ∃ t, step { toParameters := p, toBlockRun := r } = .next t ∧ t.toBlockRun = r' := by
  unfold stepFor
  cases step { toParameters := p, toBlockRun := r } <;> simp

end Sys2Proof.Machine
end

