-- ==== Sys2Proof/Laws/PerInstr.lean ====
section
/-! SUPPORT. The per-instruction family `FormatFits`: an instruction's code fits its format's one field
(spec/30_encoding.md R80 to R82), and only the two reserved operations are not well formed (R91). -/

namespace Sys2Proof.Laws.FormatFits

/-- The code fits the width of its format, and an instruction that names no operation is OP 14 or 15. -/
def Statement (i : Instr) : Prop :=
  (encode i).2 < 2 ^ (encode i).1.width ∧ (i.wf = false → (encode i).1 = .op ∧ 14 ≤ (encode i).2)

theorem fmtBpp : Statement .fmtBpp := by unfold Statement; decide
theorem fmtIsbc : Statement .fmtIsbc := by unfold Statement; decide
theorem tmFamily : Statement .tmFamily := by unfold Statement; decide
theorem tmThick : Statement .tmThick := by unfold Statement; decide
theorem tmAspect : Statement .tmAspect := by unfold Statement; decide
theorem tmBswe : Statement .tmBswe := by unfold Statement; decide
theorem tmBsww : Statement .tmBsww := by unfold Statement; decide
theorem pixIdx : Statement .pixIdx := by unfold Statement; decide
theorem addrLin : Statement .addrLin := by unfold Statement; decide
theorem addrMicro : Statement .addrMicro := by unfold Statement; decide
theorem addrMacro : Statement .addrMacro := by unfold Statement; decide
theorem mapElem : Statement .mapElem := by unfold Statement; decide
theorem xformSwz : Statement .xformSwz := by unfold Statement; decide
theorem xformDswz : Statement .xformDswz := by unfold Statement; decide
theorem opReserved14 : Statement .opReserved14 := by unfold Statement; decide
theorem opReserved15 : Statement .opReserved15 := by unfold Statement; decide
theorem tm0 : Statement .tm0 := by unfold Statement; decide
theorem tm1 : Statement .tm1 := by unfold Statement; decide
theorem tm2 : Statement .tm2 := by unfold Statement; decide
theorem tm3 : Statement .tm3 := by unfold Statement; decide
theorem tm4 : Statement .tm4 := by unfold Statement; decide
theorem tm5 : Statement .tm5 := by unfold Statement; decide
theorem tm6 : Statement .tm6 := by unfold Statement; decide
theorem tm7 : Statement .tm7 := by unfold Statement; decide
theorem tm8 : Statement .tm8 := by unfold Statement; decide
theorem tm9 : Statement .tm9 := by unfold Statement; decide
theorem tm10 : Statement .tm10 := by unfold Statement; decide
theorem tm11 : Statement .tm11 := by unfold Statement; decide
theorem tm12 : Statement .tm12 := by unfold Statement; decide
theorem tm13 : Statement .tm13 := by unfold Statement; decide
theorem tm14 : Statement .tm14 := by unfold Statement; decide
theorem tm15 : Statement .tm15 := by unfold Statement; decide
theorem tm16 : Statement .tm16 := by unfold Statement; decide
theorem tm17 : Statement .tm17 := by unfold Statement; decide
theorem tmr18 : Statement .tmr18 := by unfold Statement; decide
theorem tmr19 : Statement .tmr19 := by unfold Statement; decide
theorem tmr20 : Statement .tmr20 := by unfold Statement; decide
theorem tmr21 : Statement .tmr21 := by unfold Statement; decide
theorem tmr22 : Statement .tmr22 := by unfold Statement; decide
theorem tmr23 : Statement .tmr23 := by unfold Statement; decide
theorem tmr24 : Statement .tmr24 := by unfold Statement; decide
theorem tmr25 : Statement .tmr25 := by unfold Statement; decide
theorem tmr26 : Statement .tmr26 := by unfold Statement; decide
theorem tmr27 : Statement .tmr27 := by unfold Statement; decide
theorem tmr28 : Statement .tmr28 := by unfold Statement; decide
theorem tmr29 : Statement .tmr29 := by unfold Statement; decide
theorem tmr30 : Statement .tmr30 := by unfold Statement; decide
theorem tmr31 : Statement .tmr31 := by unfold Statement; decide

end Sys2Proof.Laws.FormatFits
end

