-- ==== Sys2Proof/Tests/Slice0.lean ====
section
/-! SUPPORT. Tests, and a witness for the hypotheses of each statement. Expected values are from
spec/95_test_vectors.md (section named at each test) or from the rule's own example. -/

namespace Sys2Proof.Tests

open Sys2Proof Sys2Proof.Machine

/-- The test format table `TROM` (spec/95_test_vectors.md). -/
def trom : Memory := [(0x04, 8), (0x1C, 16), (0x68, 32), (0x88, 128), (0xC4, 64)]

/-- The block just reset, with `TROM`. -/
def base : State := State.resetWith { fmtRom := trom }

/-- `base` with operands: coordinates, bpp, pitch, tile mode, swizzle value. -/
def unit (x y bpp pitch tm swizzle : Nat) : State :=
  { base with
    oprX := BitVec.ofNat 32 x, oprY := BitVec.ofNat 32 y, oprBpp := BitVec.ofNat 8 bpp
    descPitch := BitVec.ofNat 32 pitch, descTileMode := BitVec.ofNat 5 tm, descSwizzle := BitVec.ofNat 32 swizzle }

/-- `base` with a descriptor and an element coordinate. -/
def request (width height format tm swizzle pitch x y : Nat) : State :=
  { unit x y 0 pitch tm swizzle with
    descWidth := BitVec.ofNat 32 width, descHeight := BitVec.ofNat 32 height, descFormat := BitVec.ofNat 32 format }

/-- A request with a source. -/
def loaded (s : State) (bytes : List Byte) : State :=
  { s with src := Memory.ofBytes bytes, len := bytes.length }

/-- A part of the next state. -/
def after {α : Type} (o : Host.Outcome State Fault Refusal) (f : State → α) : Option α :=
  match o with
  | .next t => some (f t)
  | _ => none

/-- The refusal, if there is one. -/
def refusal (o : Host.Outcome State Fault Refusal) : Option Refusal :=
  match o with
  | .refused r => some r
  | _ => none

/-- The fault, if there is one. -/
def faultOf (o : Host.Outcome State Fault Refusal) : Option Fault :=
  match o with
  | .fault r => some r
  | _ => none

/-- The three results of MAP.ELEM. -/
def mappedOf (t : State) : Nat × Nat × Nat := (t.resTiled, t.resLinear, t.resEsize)

/-- The instruction a word decodes to. -/
def word (space : CodeSpace) (w : Nat) : Option Instr := (decode space w).toOption

/-! ## Decoding: a word written out from R88 or R89 for every constructor -/

theorem test_decode_format_words :
    word .op 0b0000 = some .fmtBpp ∧ word .op 0b0001 = some .fmtIsbc := by decide

theorem test_decode_tile_mode_metadata_words :
    word .op 0b0010 = some .tmFamily ∧ word .op 0b0011 = some .tmThick ∧ word .op 0b0100 = some .tmAspect
    ∧ word .op 0b0101 = some .tmBswe ∧ word .op 0b0110 = some .tmBsww := by decide

theorem test_decode_address_words :
    word .op 0b0111 = some .pixIdx ∧ word .op 0b1000 = some .addrLin ∧ word .op 0b1001 = some .addrMicro
    ∧ word .op 0b1010 = some .addrMacro := by decide

theorem test_decode_mapper_and_reserved_words :
    word .op 0b1011 = some .mapElem ∧ word .op 0b1100 = some .xformSwz ∧ word .op 0b1101 = some .xformDswz
    ∧ word .op 0b1110 = some .opReserved14 ∧ word .op 0b1111 = some .opReserved15 := by decide

theorem test_decode_linear_and_micro_rows :
    word .tm 0b00000 = some .tm0 ∧ word .tm 0b00001 = some .tm1 ∧ word .tm 0b00010 = some .tm2
    ∧ word .tm 0b00011 = some .tm3 := by decide

theorem test_decode_macro_rows :
    word .tm 0b00100 = some .tm4 ∧ word .tm 0b00101 = some .tm5 ∧ word .tm 0b00110 = some .tm6
    ∧ word .tm 0b00111 = some .tm7 ∧ word .tm 0b01000 = some .tm8 ∧ word .tm 0b01001 = some .tm9
    ∧ word .tm 0b01010 = some .tm10 ∧ word .tm 0b01011 = some .tm11 ∧ word .tm 0b01100 = some .tm12
    ∧ word .tm 0b01101 = some .tm13 ∧ word .tm 0b01110 = some .tm14 ∧ word .tm 0b01111 = some .tm15
    ∧ word .tm 0b10000 = some .tm16 := by decide

theorem test_decode_reserved_rows :
    word .tm 0b10001 = some .tm17 ∧ word .tm 0b10010 = some .tmr18 ∧ word .tm 0b10011 = some .tmr19
    ∧ word .tm 0b10100 = some .tmr20 ∧ word .tm 0b10101 = some .tmr21 ∧ word .tm 0b10110 = some .tmr22
    ∧ word .tm 0b10111 = some .tmr23 ∧ word .tm 0b11000 = some .tmr24 ∧ word .tm 0b11001 = some .tmr25
    ∧ word .tm 0b11010 = some .tmr26 ∧ word .tm 0b11011 = some .tmr27 ∧ word .tm 0b11100 = some .tmr28
    ∧ word .tm 0b11101 = some .tmr29 ∧ word .tm 0b11110 = some .tmr30 ∧ word .tm 0b11111 = some .tmr31 := by decide

/-- The words 0 to 15 are rows of both formats (log entry 11). -/
theorem test_table_words :
    decodeTableWord 8 0x0B = some .mapElem ∧ decodeTableWord 5 0x0B = some .tm11 ∧ decodeTableWord 4 0x0B = some .mapElem
    ∧ decodeTableWord 8 0x14 = some .tmr20 ∧ decodeTableWord 8 0x25 = some .tmBswe
    ∧ decodeTableWord 16 0x0108 = some .addrLin ∧ decodeTableWord 8 0x41 = none ∧ decodeTableWord 5 32 = none := by
  decide

theorem test_fetch_word_runs_the_row :
    after (step ((request 64 64 0x1A 4 0 64 37 21).withFetchWord 8 0x0B)) mappedOf = some (7348, 5524, 4)
    ∧ after (step ((request 64 64 0x1A 4 0 64 37 21).withFetchWord 5 2)) mappedOf
      = after (exec .tm2 (request 64 64 0x1A 2 0 64 37 21)) mappedOf
    ∧ refusal (step (State.reset.withFetchWord 8 14)) = some (.reservedOperation 14) := by decide

/-! ## Well-formedness smoke: one ill-formed term for each check -/

theorem test_wf_refuses_reserved_operations :
    Instr.wf .opReserved14 = false ∧ Instr.wf .opReserved15 = false ∧ Instr.wf .xformDswz = true := by decide

theorem test_wf_refuses_host_moves :
    HostMove.wf (.set 7 0) = false ∧ HostMove.wf (.set 12 0) = false ∧ HostMove.wf (.set 3 32) = false
    ∧ HostMove.wf (.get (.reg 7)) = false ∧ HostMove.wf (.set 3 31) = true := by decide

theorem test_step_refuses_ill_formed_moves :
    refusal (step { base with host := [.set 7 0] }) = some (.noSuchHostWrite 7)
    ∧ refusal (step { base with host := [.set 3 32] }) = some (.valueTooWide 3 32)
    ∧ refusal (step { base with host := [.get (.reg 7)] }) = some (.noSuchRegister 7) := by decide

/-! ## Instructions -/

/-- Section 2: 0x41A reads the byte of 0x1A, 0x234 is unpopulated. -/
theorem test_fmtBpp :
    after (exec .fmtBpp (request 0 0 0x41A 0 0 0 0 0)) (·.resValue) = some 32
    ∧ after (exec .fmtBpp (request 0 0 0x234 0 0 0 0 0)) (·.resValue) = some 0 := by decide

/-- Section 2: the whole code is compared. -/
theorem test_fmtIsbc :
    after (exec .fmtIsbc (request 0 0 0x431 0 0 0 0 0)) (·.resValue) = some 1
    ∧ after (exec .fmtIsbc (request 0 0 0x131 0 0 0 0 0)) (·.resValue) = some 0 := by decide

/-- Section 2's table, FAMILY. -/
theorem test_tmFamily : (List.range 20).map (fun n => after (exec .tmFamily (unit 0 0 0 0 n 0)) (·.resValue))
    = [0, 0, 1, 1, 2, 2, 2, 2, 2, 2, 2, 2, 2, 2, 2, 2, 2, 2, 2, 2].map some := by decide

/-- Section 2's table, THICK. -/
theorem test_tmThick : (List.range 20).map (fun n => after (exec .tmThick (unit 0 0 0 0 n 0)) (·.resValue))
    = [1, 1, 1, 4, 1, 1, 1, 4, 1, 1, 1, 4, 1, 4, 1, 4, 8, 8, 1, 1].map some := by decide

/-- Section 2's table, ASPECT. -/
theorem test_tmAspect : (List.range 20).map (fun n => after (exec .tmAspect (unit 0 0 0 0 n 0)) (·.resValue))
    = [1, 1, 1, 1, 1, 2, 4, 1, 1, 2, 4, 1, 1, 1, 1, 1, 1, 1, 1, 1].map some := by decide

/-- Section 2's table, BSWE. -/
theorem test_tmBswe : (List.range 20).map (fun n => after (exec .tmBswe (unit 0 0 0 0 n 0)) (·.resValue))
    = [0, 0, 0, 0, 0, 0, 0, 0, 1, 1, 1, 1, 0, 0, 1, 1, 0, 0, 0, 0].map some := by decide

/-- R89's rotation classes. -/
theorem test_rotation_class : rotationClass 3 = .none ∧ rotationClass 4 = .a ∧ rotationClass 11 = .a
    ∧ rotationClass 12 = .b ∧ rotationClass 15 = .b ∧ rotationClass 16 = .none := by decide

/-- Section 2: (8, 1, 1000), (8, 32, 1), (10, 96, 16), (11, 32, 256), (16, 32, 64). -/
theorem test_tmBsww :
    [(8, 1, 1000), (8, 32, 1), (10, 96, 16), (11, 32, 256), (16, 32, 64)].map
      (fun r => after (exec .tmBsww (unit 0 0 r.2.1 r.2.2 r.1 0)) (·.resValue))
    = [1024, 1, 21, 64, 0].map some := by decide

/-- Section 2's corner vector (8, 32, 0): it does not complete; (4, 0, 0) is 0. -/
theorem test_tmBsww_corners :
    faultOf (exec .tmBsww (unit 0 0 32 0 8 0)) = some .swapWidthNeverEnds
    ∧ after (exec .tmBsww (unit 0 0 0 0 4 0)) (·.resValue) = some 0 := by decide

/-- Section 3: the z bits at thickness 1, 4 and 8. -/
theorem test_pixIdx_z_bits :
    [(2, 7), (3, 7), (16, 7)].map
      (fun r => after (exec .pixIdx { unit 3 5 32 0 r.1 0 with oprZ := BitVec.ofNat 3 r.2 }) (·.resValue))
    = [39, 231, 487].map some := by decide

/-- Section 3: one vector for each class, (x, y, bpp). -/
theorem test_pixIdx_classes :
    [(0, 1, 8), (0, 2, 8), (1, 2, 16), (11, 13, 32), (1, 1, 64), (1, 0, 128), (5, 6, 0)].map
      (fun r => after (exec .pixIdx (unit r.1 r.2.1 r.2.2 0 2 0)) (·.resValue))
    = [16, 8, 17, 39, 3, 2, 57].map some := by decide

/-- Section 4: no wrap-around; the floor for a bpp of 12. -/
theorem test_addrLin :
    after (exec .addrLin (unit 4294967295 4294967295 248 4294967295 0 0)) (·.resValue) = some 571849066151852113920
    ∧ after (exec .addrLin (unit 5 2 12 16 0 0)) (·.resValue) = some 55 := by decide

/-- Section 4: (x, y, bpp, pitch, tm). -/
theorem test_addrMicro :
    [(11, 13, 96, 16, 2), (11, 13, 32, 16, 3), (11, 13, 32, 20, 2), (11, 13, 32, 4, 2), (3, 5, 32, 8, 7)].map
      (fun r => after (exec .addrMicro (unit r.1 r.2.1 r.2.2.1 r.2.2.2.1 r.2.2.2.2 0)) (·.resValue))
    = [2772, 3228, 924, 412, 156].map some := by decide

/-- Section 5: plain, swizzled, aspect 2 and 4, thick, pitch below the macro-tile pitch, bpp 0. -/
theorem test_addrMacro_plain :
    [unit 37 21 32 64 4 0, unit 37 21 32 64 4 0x500, unit 40 70 16 128 5 0, unit 40 70 16 128 6 0,
      unit 33 17 32 64 7 0, unit 37 21 32 16 4 0, unit 37 21 0 64 4 0].map
      (fun s => after (exec .addrMacro s) (·.resValue))
    = [7348, 6580, 19296, 21472, 25620, 3252, 1024].map some := by decide

/-- Section 5: bank-swapped modes, and the sample-split branch. -/
theorem test_addrMacro_swapped_and_split :
    [unit 200 100 32 256 14 0, unit 100 50 32 256 11 0, unit 100 50 32 256 8 0x700, unit 40 70 8 128 10 0x200,
      unit 33 17 64 64 16 0, unit 45 9 128 64 7 0].map
      (fun s => after (exec .addrMacro s) (·.resValue))
    = [111488, 222304, 55648, 10600, 1048, 688].map some := by decide

/-- Section 6: swizzle bits 11 to 31 ignored; block-compressed width in the linear offset only. -/
theorem test_mapElem :
    [request 64 64 0x1A 4 0xFFFFF8FF 64 37 21, request 16 8 0x031 2 0 8 2 1, request 16 8 0x131 2 0 8 2 1,
      request 8 8 0x1A 1 0 16 3 5].map (fun s => after (exec .mapElem s) mappedOf)
    = [(7348, 5524, 4), (48, 48, 8), (48, 144, 8), (332, 172, 4)].map some := by decide

/-- Every tile-mode row at program P6's operands; rows 12 and 14 are P6's own results, the others are computed with the
spec's transcription (section 9). -/
theorem test_tile_mode_rows :
    tmRows.map (fun i => after (exec i (request 256 128 0x1A 0 0 256 200 100)) (·.resTiled))
    = [103200, 103200, 104832, 418944, 110976, 123264, 117120, 442752, 111488, 123776,
      118144, 443776, 110976, 442752, 111488, 443776, 885120, 885120, 110976, 110976,
      110976, 110976, 110976, 110976, 110976, 110976, 110976, 110976, 110976, 110976,
      110976, 110976].map some := by decide

/-- Program P3's variant: a partial element and a skipped one. -/
theorem test_xformSwz_partial_element :
    after (exec .xformSwz (loaded (request 2 2 0x1A 0 0 3 0 0)
      [0xA0, 0xA1, 0xA2, 0xA3, 0xA4, 0xA5, 0xA6, 0xA7, 0xA8, 0xA9, 0xAA, 0xAB, 0xAC, 0xAD])) (fun t => t.dst.toBytes 14)
    = some [0xA0, 0xA1, 0xA2, 0xA3, 0xA4, 0xA5, 0xA6, 0xA7, 0, 0, 0, 0, 0xA8, 0xA9] := by decide

/-- Program P5, first run: the later element wins; the walk ends at row 2. -/
theorem test_xformSwz_last_write_wins :
    after (exec .xformSwz (loaded (request 4 2 0x01 0 0 2 0 0) [0x11, 0x22, 0x33, 0x44, 0x55, 0x66, 0x77, 0x88]))
      (fun t => (t.dst.toBytes 8, t.scanY, t.scanX))
    = some ([0x11, 0x22, 0x55, 0x66, 0x77, 0x88, 0, 0], 2, 0) := by decide

/-- Program P5, second run. -/
theorem test_xformDswz :
    after (exec .xformDswz (loaded (request 4 2 0x01 0 0 2 0 0) [0x11, 0x22, 0x55, 0x66, 0x77, 0x88, 0, 0]))
      (fun t => t.dst.toBytes 8)
    = some [0x11, 0x22, 0x55, 0x66, 0x55, 0x66, 0x77, 0x88] := by decide

/-- R286: with pitch 0 on an eligible mode a transform never completes; with an empty extent or bpp 0 it does. -/
theorem test_transform_hang :
    faultOf (exec .xformDswz (request 4 1 0x01 8 0 0 0 0)) = some .swapWidthNeverEnds
    ∧ after (exec .xformDswz (request 4 0 0x01 8 0 0 0 0)) (·.dst) = some []
    ∧ after (exec .xformSwz (request 4 1 0x00 8 0 0 0 0)) (·.dst) = some [] := by decide

/-- R91. -/
theorem test_reserved_operations :
    refusal (exec .opReserved14 base) = some (.reservedOperation 14)
    ∧ refusal (exec .opReserved15 base) = some (.reservedOperation 15) := by decide

/-- The host moves of program P5's first run, the whole call. -/
theorem test_host_moves :
    after (step { base with host := [.set 3 14] }) (·.descTileMode) = some 14
    ∧ after (step { base with host := [.load [5, 0, 7]] }) (fun t => (t.len, t.src)) = some (3, [(0, 5), (2, 7)])
    ∧ after (step { base with host := [.get (.reg 6)], cmdOp := 9 }) (·.reading) = some (.value 9)
    ∧ after (step { base with host := [.run 3], descTileMode := 13, written := 8 }) (fun t => (t.resValue, t.cmdOp))
      = some (4, 3)
    ∧ (swizzleCall 4 2 1 0 0 2 [0x11]).length = 9 := by decide

/-- R39, X9: with DESC.TILE_MODE alone written, TM.THICK runs and PIX.IDX is refused; RUN writes CMD.OP itself, a bare
start needs it written (log entry 2). -/
theorem test_start_reads_written_registers_only :
    after (step { base with host := [.run 3], written := 8 }) (·.resValue) = some 1
    ∧ refusal (step { base with host := [.run 7], written := 8 }) = some .registerNeverWritten
    ∧ refusal (step { base with host := [.run 6], descTileMode := 8, written := 8 }) = some .registerNeverWritten
    ∧ refusal (step { base with host := [.start], cmdOp := 3, written := 8 }) = some .registerNeverWritten
    ∧ after (step { base with host := [.start], cmdOp := 3, written := 0x48 }) (·.resValue) = some 1 := by decide

/-- The corner vector (4, 0, 0) of section 2, "neither `bpp` nor `pitch` is read", and R141's z at thickness 1 (section 3):
a start does not need them written (log entry 21). -/
theorem test_start_needs_no_unread_operand :
    after (step { base with host := [.run 6], descTileMode := 4, written := 8 }) (·.resValue) = some 0
    ∧ after (step { unit 3 5 32 0 2 0 with host := [.run 7], written := 0xB08 }) (·.resValue) = some 39
    ∧ refusal (step { unit 3 5 32 0 3 0 with host := [.run 7], written := 0xB08 }) = some .registerNeverWritten := by
  decide

/-- The machine that takes the table as an argument: section 2's bpp of 0x41A under `TROM`. -/
theorem test_table_is_an_argument :
    (match (coreFor { fmtRom := trom }).step
        { BlockRun.reset with host := [.run 0], descFormat := 0x41A, written := 4 } with
      | .next r => r.resValue
      | _ => 0) = 32 := by decide

/-- R86's fields of 7348 (section 5: pipe 0, bank 2, low 180, group 3). -/
theorem test_taddr_fields :
    taddrOffsetLow 7348 = 180 ∧ taddrPipe 7348 = 0 ∧ taddrBank 7348 = 2 ∧ taddrGroup 7348 = 3 := by decide

/-! ## Witnesses: states and operands that meet the hypotheses of each statement, each clause at a boundary value -/

/-- Two elements of one byte on a linear mode, a well-formed request. -/
def pair : State := loaded (request 2 1 0x01 0 0 2 0 0) [7, 9]

/-- `base` with host moves to come. -/
def withMoves (ms : List HostMove) : State := { base with host := ms }

/-- Every register the start reads is written, and every register but one: each clause for a start and for a RUN. -/
theorem witness_StepRunsTheDecodedOperation :
    ((withMoves [.start]).host = .start :: [] ∧ decode .op (withMoves [.start]).cmdOp.toNat = .ok .fmtBpp
      ∧ Instr.wf .fmtBpp = true
      ∧ (∀ n ∈ Expected.startReads .fmtBpp base, ({ withMoves [.start] with written := 0x44 } : State).written.getLsbD n = true)
      ∧ (∃ n ∈ Expected.startReads .fmtBpp base, ({ withMoves [.start] with written := 4 } : State).written.getLsbD n = false)
      ∧ ({ withMoves [.start] with written := 4 } : State).written.getLsbD 6 = false)
    ∧ ((withMoves [.run 13]).host = .run 13 :: [] ∧ decode .op (13 : BitVec 4).toNat = .ok .xformDswz
      ∧ Instr.wf .xformDswz = true
      ∧ (∀ n ∈ Expected.startReads .xformDswz base, n ≠ 6 →
          ({ withMoves [.run 13] with written := 0x3F } : State).written.getLsbD n = true)
      ∧ (∃ n ∈ Expected.startReads .xformDswz base, n ≠ 6
          ∧ ({ withMoves [.run 13] with written := 0x1F } : State).written.getLsbD n = false)) := by decide

theorem witness_ReservedOperationsAreRefused :
    (∀ op ∈ [(14 : BitVec 4), 15], (op = 14#4 ∨ op = 15#4)
      ∧ ({ withMoves [.start] with cmdOp := op, written := 0x40 } : State).host = .start :: []
      ∧ ({ withMoves [.start] with cmdOp := op, written := 0x40 } : State).cmdOp = op
      ∧ ({ withMoves [.start] with cmdOp := op, written := 0x40 } : State).written.getLsbD 6 = true
      ∧ (withMoves [.run op]).host = .run op :: [])
    ∧ ({ withMoves [.start] with cmdOp := 14 } : State).written.getLsbD 6 = false := by decide

theorem witness_IdleBlockHoldsItsState : (withMoves []).host = [] := by decide

theorem witness_MapElemRunsTheTileModeRow :
    decode .tm (unit 0 0 0 0 31 0).descTileMode.toNat = .ok .tmr31
    ∧ decode .tm (unit 0 0 0 0 0 0).descTileMode.toNat = .ok .tm0 := by decide

theorem witness_DecodeAndEncodeAgree :
    decode .op 15 = .ok .opReserved15 ∧ decode .tm 31 = .ok .tmr31 ∧ 16 ≤ 16 ∧ 32 ≤ 32 := by decide

theorem witness_FmtBppReadsTheRecord :
    (BitVec.ofNat 32 0x43F).toNat % 64 = (request 0 0 0x03F 0 0 0 0 0).descFormat.toNat % 64 := by decide

theorem witness_FmtIsbcTestsTheWholeCode :
    0x235 ∈ [0x031, 0x431, 0x032, 0x432, 0x033, 0x433, 0x034, 0x234, 0x035, 0x235]
    ∧ 0x435 ∉ [0x031, 0x431, 0x032, 0x432, 0x033, 0x433, 0x034, 0x234, 0x035, 0x235] := by decide

theorem witness_TmBswwZeroWhenNotEligible :
    (unit 0 0 0 0 7 0).descTileMode.toNat ∉ [8, 9, 10, 11, 14, 15]
    ∧ (unit 0 0 0 0 16 0).descTileMode.toNat ∉ [8, 9, 10, 11, 14, 15] := by decide

/-- The same hypotheses as AddrMacroSwappedResult's. -/
theorem witness_TmBswwHalvesTheClampedWidth :
    (unit 0 0 1 1 8 0).descTileMode.toNat ∈ [8, 9, 10, 11, 14, 15] ∧ 0 < (unit 0 0 1 1 8 0).oprBpp.toNat
    ∧ 0 < (unit 0 0 1 1 8 0).descPitch.toNat
    ∧ (unit 0 0 255 1 15 0).descTileMode.toNat ∈ [8, 9, 10, 11, 14, 15] ∧ 0 < (unit 0 0 255 1 15 0).oprBpp.toNat
    ∧ 0 < (unit 0 0 255 1 15 0).descPitch.toNat := by decide

theorem witness_BankSwapWidthBound :
    (1 ≤ 1 ∧ 1 ≤ 255) ∧ (1 ≤ 255 ∧ 255 ≤ 255) ∧ bankSwapEligible 15 = true ∧ 8 ≤ 248 ∧ 248 ≤ 248 := by decide

theorem witness_BankSwapWidthTable :
    (8, 512) ∈ [8, 16, 32, 64, 96, 128].zip [512, 256, 128, 64, 32, 32] ∧ 512 < 2 * 257
    ∧ (128, 16) ∈ [8, 16, 32, 64, 96, 128].zip [256, 128, 64, 32, 21, 16] ∧ 16 < 2 * 9
    ∧ (7 : BitVec 5).toNat ∉ [8, 9, 10, 11, 14, 15] := by decide

theorem witness_UnspecifiedWidthIsAFreeValue :
    (request 1 1 0 8 0 0 0 0).descTileMode.toNat ∈ [8, 9, 10, 11, 14, 15] ∧ (request 1 1 0 8 0 0 0 0).oprBpp = 0
    ∧ Expected.reqBpp (request 1 1 0 8 0 0 0 0) = 0 := by decide

theorem witness_PixelIndexBijective : 63 < 64 * thickness 0 ∧ 255 < 64 * thickness 3 ∧ 511 < 64 * thickness 17 := by
  decide

theorem witness_HeightChangesNoAddress :
    (∃ t, exec .addrMicro (unit 11 13 32 16 3 0) = .next t) ∧ (∃ t, exec .addrMacro (unit 37 21 32 64 4 0) = .next t) :=
  ⟨⟨_, rfl⟩, ⟨_, rfl⟩⟩

theorem witness_MicroTileSlotsBijective : 0 < 8 ∧ 8 % 8 = 0 ∧ 16 % 8 = 0 ∧ 255 < 16 * 16 := by decide

theorem witness_AddrMacroPlainResult : (unit 0 0 0 0 17 0).descTileMode.toNat ∉ [8, 9, 10, 11, 14, 15] := by decide

theorem witness_AddrMacroSwappedResult :
    (unit 0 0 8 1 14 0).descTileMode.toNat ∈ [8, 9, 10, 11, 14, 15] ∧ 0 < (unit 0 0 8 1 14 0).oprBpp.toNat
    ∧ 0 < (unit 0 0 8 1 14 0).descPitch.toNat := by decide

theorem witness_SampleSplitIsDegenerate :
    64 * 4 ≤ 256 ∧ 256 < 257 * 1 ∧ 64 * 257 - 1 < 64 * 257 ∧ 256 < 33 * 8 ∧ 0 < 64 * 33 := by decide

theorem witness_RotationReducesToXor : 1 < 2 ∧ 3 < 4 := by decide

theorem witness_TaddrFieldsDoNotOverlap : 3 < 4 ∧ 1 < 2 := by decide

theorem witness_ThinMacroRangesDisjoint :
    thickness 8 = 1 ∧ 128 ∈ [8, 16, 32, 64, 128] ∧ 0 < 32 ∧ 32 % macroTilePitch 8 = 0 ∧ 1 < 2 ∧ 3 < 4
    ∧ 0 < 32 ∧ 31 < 32 ∧ (0, 0) ≠ (31, 0)
    ∧ (∃ a, addrMacro 0 0 128 32 16 8 1 3 = .value a) ∧ (∃ a, addrMacro 31 0 128 32 16 8 1 3 = .value a) :=
  ⟨by decide, by decide, by decide, by decide, by decide, by decide, by decide, by decide, by decide,
    ⟨_, rfl⟩, ⟨_, rfl⟩⟩

theorem witness_MapElemDispatchesToTheCalculator :
    (∃ t, exec .addrLin (request 64 64 0x1A 1 0 64 37 21) = .next t)
    ∧ (∃ t, exec .addrMicro (request 64 64 0x1A 3 0 64 37 21) = .next t)
    ∧ (∃ t, exec .addrMacro (request 64 64 0x00 8 0 0 37 21) = .next t) :=
  ⟨⟨_, rfl⟩, ⟨_, rfl⟩, ⟨_, rfl⟩⟩

theorem witness_SwappedMacroRowsResult :
    0 < Expected.reqBpp (request 1 1 0x01 8 0 1 0 0) ∧ 0 < (request 1 1 0x01 8 0 1 0 0).descPitch.toNat := by decide

theorem witness_EqualAttributesEqualAddresses :
    (12 : BitVec 5) ∈ ([0, 1, 2, 4, 12, 18] : List (BitVec 5)) ∧ (14 : BitVec 5) ∈ ([8, 14] : List (BitVec 5)) := by
  decide

theorem witness_OtherSwizzleBitsAreIgnored :
    (BitVec.ofNat 32 0xFFFFFFFF).toNat / 256 % 8 = (unit 37 21 32 64 4 0x700).descSwizzle.toNat / 256 % 8
    ∧ ∃ t, exec .addrMacro (unit 37 21 32 64 4 0x700) = .next t := ⟨by decide, ⟨_, rfl⟩⟩

/-- Outside the excluded case by the tile mode, by bpp, by the pitch and by the extent. -/
theorem witness_TransformsComplete :
    ∀ s ∈ [request 1 1 0x01 7 0 0 0 0, request 1 1 0x00 8 0 0 0 0, request 1 1 0x01 8 0 1 0 0, request 0 1 0x01 8 0 0 0 0],
      ¬ (bankSwapEligible s.descTileMode = true ∧ 0 < Expected.reqBpp s ∧ s.descPitch.toNat = 0
        ∧ 0 < Expected.reqWidth s ∧ 0 < Expected.reqHeight s) := by decide

theorem witness_SwizzleResult : ∀ x y, x < Expected.reqWidth pair → y < Expected.reqHeight pair →
    ∃ u, exec .mapElem { pair with oprX := BitVec.ofNat 32 x, oprY := BitVec.ofNat 32 y } = .next u
      ∧ u.resTiled = (fun x _ => x) x y := by
  intro x y hx hy
  have hw : Expected.reqWidth pair = 2 := by decide
  have hh : Expected.reqHeight pair = 1 := by decide
  obtain rfl : y = 0 := by omega
  obtain rfl | rfl : x = 0 ∨ x = 1 := by omega
  · exact ⟨_, rfl, by decide⟩
  · exact ⟨_, rfl, by decide⟩

theorem witness_DeswizzleResult : ∀ x y, x < Expected.reqWidth pair → y < Expected.reqHeight pair →
    ∃ u, exec .mapElem { pair with oprX := BitVec.ofNat 32 x, oprY := BitVec.ofNat 32 y } = .next u
      ∧ u.resTiled = (fun x _ => x) x y := witness_SwizzleResult

theorem witness_LinearRangesDisjoint :
    (planOf pair).inside 0 0 ∧ (planOf pair).inside 1 0 ∧ ((0, 0) : Nat × Nat) ≠ (1, 0) := by
  unfold Plan.inside; decide

theorem witness_EmptyExtentOrZeroBppGivesZeros :
    Expected.reqWidth (request 0 1 0x01 0 0 0 0 0) = 0 ∧ Expected.reqHeight (request 1 3 0x031 0 0 0 0 0) = 0
    ∧ Expected.reqBpp (request 1 1 0x00 0 0 0 0 0) = 0 := by decide

theorem witness_LinearModeIsTheIdentity :
    pair.descTileMode.toNat < 2 ∧ pair.descPitch.toNat = Expected.reqWidth pair ∧ Expected.reqBpp pair % 8 = 0
    ∧ 1 < pair.len ∧ 1 < Expected.reqWidth pair * Expected.reqHeight pair * (Expected.reqBpp pair / 8) := by decide

theorem inside_pair {x y : Nat} (h : (planOf pair).inside x y) : (x = 0 ∨ x = 1) ∧ y = 0 := by
  have hw : (planOf pair).effWidth = 2 := by decide
  have hh : (planOf pair).effHeight = 1 := by decide
  unfold Plan.inside at h
  omega

theorem tiled_pair {x y : Nat} (h : (planOf pair).inside x y) : tiledOffset (planOf pair) x y = .value x := by
  obtain ⟨rfl | rfl, rfl⟩ := inside_pair h <;> decide

theorem wellFormed_pair : WellFormedRequest pair where
  bppMultiple := by decide
  rangesInside := by
    intro x y h
    refine ⟨x, tiled_pair h, ?_⟩
    obtain ⟨rfl | rfl, rfl⟩ := inside_pair h <;> decide
  rangesDisjoint := by
    intro x y x' y' t t' h h' hne ht ht'
    have e : (planOf pair).elementSize = 1 := by decide
    rw [tiled_pair h] at ht
    rw [tiled_pair h'] at ht'
    cases ht
    cases ht'
    obtain ⟨_, rfl⟩ := inside_pair h
    obtain ⟨_, rfl⟩ := inside_pair h'
    have : x ≠ x' := fun hx => hne (by rw [hx])
    omega
  pitchPositive := by decide
  notSplit := by decide

theorem witness_RoundTripRestoresTheSource : WellFormedRequest pair ∧ pair.wf = true
    ∧ pair.len = Expected.reqWidth pair * Expected.reqHeight pair * (Expected.reqBpp pair / 8) :=
  ⟨wellFormed_pair, by decide, by decide⟩

/-- The order that takes the second element first. -/
theorem witness_AnyElementOrderGivesTheResult : WellFormedRequest pair
    ∧ (∀ x y, (planOf pair).inside x y → tiledOffset (planOf pair) x y = .value ((fun x _ => x) x y))
    ∧ ([(1, 0), (0, 0)] : List (Nat × Nat)).Nodup
    ∧ (∀ e : Nat × Nat, e ∈ [(1, 0), (0, 0)] ↔ (planOf pair).inside e.1 e.2)
    ∧ ∃ t, exec .xformSwz pair = .next t := by
  refine ⟨wellFormed_pair, fun x y h => tiled_pair h, by decide, ?_, ⟨_, rfl⟩⟩
  rintro ⟨x, y⟩
  constructor
  · intro h
    simp only [List.mem_cons, Prod.mk.injEq, List.not_mem_nil, or_false] at h
    obtain ⟨rfl, rfl⟩ | ⟨rfl, rfl⟩ := h <;> (unfold Plan.inside; decide)
  · intro h
    obtain ⟨rfl | rfl, hy⟩ := inside_pair h <;> (simp only at hy; subst hy; simp)

/-- Two states that differ outside the operands. -/
theorem witness_TransformDependsOnItsOperandsOnly :
    pair ≠ { pair with oprX := 9 } ∧ pair.src = ({ pair with oprX := 9 } : State).src
    ∧ ∃ t, exec .xformDswz pair = .next t := ⟨by decide, rfl, ⟨_, rfl⟩⟩

theorem witness_EveryMeaningCompletesOrIsNamed :
    Expected.hangs .tmBsww (unit 0 0 1 0 8 0) ∧ Expected.hangs .mapElem (request 1 1 0x01 8 0 0 0 0)
    ∧ Expected.hangs .xformSwz (request 1 1 0x01 15 0 0 0 0) ∧ Expected.hangs .tm8 (request 1 1 0x01 0 0 0 0 0)
    ∧ ¬ Expected.hangs .tmBsww (unit 0 0 1 1 8 0) ∧ ¬ Expected.hangs .tmBsww (unit 0 0 0 0 8 0)
    ∧ ¬ Expected.hangs .xformSwz (request 1 0 0x01 15 0 0 0 0) := by
  unfold Expected.hangs; decide

theorem witness_OperationsLeaveTheirOperands : ∃ t, exec .xformSwz pair = .next t := ⟨_, rfl⟩

theorem witness_OnlyTransformsWriteTheBuffer : ∃ t, exec .mapElem pair = .next t := ⟨_, rfl⟩

theorem witness_ResultRegistersHoldTheLastResult :
    (∃ t, exec .addrLin pair = .next t) ∧ (encode .addrLin).1 = .op ∧ (∃ t, exec .tm3 pair = .next t)
    ∧ (encode .tm3).1 = .tm := ⟨⟨_, rfl⟩, by decide, ⟨_, rfl⟩, by decide⟩

theorem witness_TransformsStayInsideTheBuffer : (∃ t, exec .xformDswz pair = .next t) ∧ pair.len ≤ 2 :=
  ⟨⟨_, rfl⟩, by decide⟩

theorem witness_EveryStepKeepsTheInvariant :
    ({ pair with host := [.run 12], written := 0x3F } : State).wf = true
    ∧ ∃ t, step { pair with host := [.run 12], written := 0x3F } = .next t :=
  ⟨by decide, ⟨_, rfl⟩⟩

theorem witness_FormatBppIsAMultipleOfEight : base.wf = true := by decide

theorem witness_NoStepWritesTheFormatTable : (∃ t, step (withMoves [.set 5 4294967295]) = .next t)
    ∧ (∃ r, stepFor { fmtRom := trom } (withMoves [.set 5 4294967295]).toBlockRun = .next r)
    ∧ (∃ r, execFor { fmtRom := trom } .mapElem BlockRun.reset = .next r) := ⟨⟨_, rfl⟩, ⟨_, rfl⟩, ⟨_, rfl⟩⟩

theorem witness_SetWritesOneRegister :
    (withMoves [.set 3 31]).host = .set 3 31 :: [] ∧ hostWriteWidth 3 = some 5 ∧ 31 < 2 ^ 5 := by decide

theorem witness_MovesTheSpecLacksAreRefused :
    (withMoves [.set 15 0]).host = .set 15 0 :: [] ∧ (15 : BitVec 4).toNat ∈ [7, 12, 13, 14, 15]
    ∧ (withMoves [.set 3 32]).host = .set 3 32 :: [] ∧ hostWriteWidth 3 = some 5 ∧ 2 ^ 5 ≤ 32
    ∧ (withMoves [.get (.reg 7)]).host = .get (.reg 7) :: [] := by decide

theorem witness_LoadSuppliesTheSource : (withMoves [.load [0, 5]]).host = .load [0, 5] :: [] := by decide

theorem witness_GetHandsOverTheValue :
    (withMoves [.get .dst]).host = .get .dst :: [] ∧ (withMoves [.get (.reg 15)]).host = .get (.reg 15) :: []
    ∧ readRegister (withMoves []) 15 = some 0 := by decide

end Sys2Proof.Tests
end

section
/-! The reserved operations (spec/30_encoding.md R91): `CMD.OP` 14 and 15 start nothing. -/

namespace Sys2Proof.Machine

/-! ## A start as a step -/

/-- A bare start is the start of the operation that `CMD.OP` holds. -/
theorem step_of_host_start {s : State} {rest : List HostMove} (h : s.host = .start :: rest) :
    step s = startOperation { s with host := rest } := by
  simp only [step, h]

/-- A `RUN` writes and marks `CMD.OP` before it starts (spec/30_encoding.md R98). -/
theorem step_of_host_run {s : State} {op : BitVec 4} {rest : List HostMove} (h : s.host = .run op :: rest) :
    step s = startOperation (markWritten { s with host := rest, cmdOp := op } 6#4) := by
  simp only [step, h]

/-- A register is written once it is marked. -/
theorem markWritten_written_same (s : State) (number : BitVec 4) :
    (markWritten s number).written.getLsbD number.toNat = true := by
  have hn : number.toNat < 16 := number.isLt
  simp [markWritten, hn]

/-! ## The reserved operations -/

/-- The meaning of operation code 14 is its refusal. -/
theorem exec_opReserved14 (s : State) : exec .opReserved14 s = .refused (.reservedOperation 14#4) := rfl

/-- The meaning of operation code 15 is its refusal. -/
theorem exec_opReserved15 (s : State) : exec .opReserved15 s = .refused (.reservedOperation 15#4) := rfl

section
variable {op : BitVec 4} (hop : op = 14#4 ∨ op = 15#4)
include hop

/-- What a reserved code decodes to is refused under that code. -/
theorem exec_decodeOp_reserved (s : State) : exec (decodeOp op) s = .refused (.reservedOperation op) := by
  rcases hop with rfl | rfl
  · exact exec_opReserved14 s
  · exact exec_opReserved15 s

/-- A reserved code has no operands, so its start reads `CMD.OP` alone. -/
theorem startRegisters_reserved (s : State) : startRegisters (decodeOp op) s = [6#4] := by
  rcases hop with rfl | rfl <;> rfl

/-- The test of a start with a reserved code is the mark of `CMD.OP`. -/
theorem hostWroteOperands_reserved (s : State) : hostWroteOperands (decodeOp op) s = s.written.getLsbD 6 := by
  simp [hostWroteOperands, startRegisters_reserved hop, wasWritten]

/-- With `CMD.OP` written, a start with a reserved code is refused under that code. -/
theorem startOperation_reserved_written {s : State} (hs : s.cmdOp = op) (hw : s.written.getLsbD 6 = true) :
    startOperation s = .refused (.reservedOperation op) := by
  subst hs
  rw [startOperation_written ((hostWroteOperands_reserved hop s).trans hw), exec_decodeOp_reserved hop]

/-- With `CMD.OP` never written, a start with a reserved code is refused for that (log entry 2). -/
theorem startOperation_reserved_unwritten {s : State} (hs : s.cmdOp = op) (hw : s.written.getLsbD 6 = false) :
    startOperation s = .refused .registerNeverWritten := by
  subst hs
  exact startOperation_unwritten ((hostWroteOperands_reserved hop s).trans hw)

/-- A start with a reserved code is refused, whatever the host has written. -/
theorem startOperation_reserved_refused {s : State} (hs : s.cmdOp = op) : ∃ r, startOperation s = .refused r := by
  cases hw : s.written.getLsbD 6 with
  | true => exact ⟨_, startOperation_reserved_written hop hs hw⟩
  | false => exact ⟨_, startOperation_reserved_unwritten hop hs hw⟩

end

/-- Settles O7: a start with a reserved code reads `CMD.OP` alone, so either its mark is missing or the reserved
instruction's own refusal is reached; a `RUN` sets the mark itself. -/
theorem reservedOperationsAreRefused : Obligations.ReservedOperationsAreRefused := by
  unfold Obligations.ReservedOperationsAreRefused
  refine ⟨fun s => ⟨exec_opReserved14 s, exec_opReserved15 s⟩, fun s rest op hop => ⟨?start, ?run⟩⟩
  case start =>
    intro hhost hcmd
    rw [step_of_host_start hhost]
    exact ⟨startOperation_reserved_refused hop hcmd, fun hmark => startOperation_reserved_written hop hcmd hmark⟩
  case run =>
    intro hhost
    rw [step_of_host_run hhost]
    exact startOperation_reserved_written hop rfl (markWritten_written_same _ 6#4)

end Sys2Proof.Machine
end

section
/-! FMT.BPP (spec/40_format_metadata.md R111): byte 0 of the record that the low 6 bits of the format code select. -/

namespace Sys2Proof.Machine

/-- FMT.BPP has one outcome: the format's bits per element go to `RES.VALUE`. -/
theorem exec_fmtBpp (s : State) : exec .fmtBpp s = .next (s.setValue (formatBpp s.fmtRom s.descFormat)) := rfl

/-- `DESC.FORMAT & 0x3F`, as a remainder. -/
theorem hwfmt_eq_mod (format : Word) : hwfmt format = format.toNat % 64 := by
  simp [hwfmt, bitField]

/-- The index is four times the record number (R85, R111). -/
theorem romIndex_eq (format : Word) : romIndex format = 4 * (format.toNat % 64) := by
  rw [romIndex, hwfmt_eq_mod, Nat.mul_comm]

/-- The bits per element are byte 0 of the selected record, zero-extended (R111). -/
theorem formatBpp_eq_read (rom : Memory) (format : Word) :
    formatBpp rom format = (rom.read (4 * (format.toNat % 64))).toNat := by
  rw [formatBpp, romIndex_eq]

/-- Settles O8: the index is four times the low 6 bits, so the bits above them do not reach the result. -/
theorem fmtBppReadsTheRecord : Obligations.FmtBppReadsTheRecord := by
  unfold Obligations.FmtBppReadsTheRecord
  refine fun s => ⟨?record, fun f hlow => ?sameLowBits⟩
  case record =>
    rw [exec_fmtBpp, formatBpp_eq_read, State.setValue]
  case sameLowBits =>
    rw [exec_fmtBpp, formatBpp_eq_read, hlow, State.setValue]

end Sys2Proof.Machine
end

section
/-! Tile-mode metadata (spec/41_tile_mode_metadata.md R120 to R123): each result is a test of the 5-bit code
against sets of codes, said here once of the code as a number. -/

namespace Sys2Proof.Machine

/-! ## The code sets as sets of numbers -/

section
variable {tm : BitVec 5}

/-- A code is in a set exactly when its number is among the set's numbers. -/
theorem mem_codes_iff_toNat_mem {codes : List (BitVec 5)} : tm ∈ codes ↔ tm.toNat ∈ codes.map BitVec.toNat :=
  (List.mem_map_of_injective BitVec.toNat_injective).symm

theorem mem_linearCodes_iff : tm ∈ linearCodes ↔ tm.toNat < 2 := by
  have hset : tm ∈ linearCodes ↔ tm.toNat ∈ [0, 1] := mem_codes_iff_toNat_mem
  simp only [hset, List.mem_cons, List.not_mem_nil, or_false]
  omega

theorem mem_microCodes_iff : tm ∈ microCodes ↔ 2 ≤ tm.toNat ∧ tm.toNat < 4 := by
  have hset : tm ∈ microCodes ↔ tm.toNat ∈ [2, 3] := mem_codes_iff_toNat_mem
  simp only [hset, List.mem_cons, List.not_mem_nil, or_false]
  omega

theorem mem_thick4Codes_iff : tm ∈ thick4Codes ↔ tm.toNat ∈ [3, 7, 11, 13, 15] := mem_codes_iff_toNat_mem

theorem mem_thick8Codes_iff : tm ∈ thick8Codes ↔ tm.toNat ∈ [16, 17] := mem_codes_iff_toNat_mem

theorem mem_aspect2Codes_iff : tm ∈ aspect2Codes ↔ tm.toNat ∈ [5, 9] := mem_codes_iff_toNat_mem

theorem mem_aspect4Codes_iff : tm ∈ aspect4Codes ↔ tm.toNat ∈ [6, 10] := mem_codes_iff_toNat_mem

theorem mem_bankSwappedCodes_iff : tm ∈ bankSwappedCodes ↔ tm.toNat ∈ [8, 9, 10, 11, 14, 15] :=
  mem_codes_iff_toNat_mem

theorem bankSwapEligible_iff : bankSwapEligible tm = true ↔ tm.toNat ∈ [8, 9, 10, 11, 14, 15] :=
  decide_eq_true_iff.trans mem_bankSwappedCodes_iff

end

/-! ## The results as functions of the number -/

/-- The family by two bounds: below 2 linear, then below 4 micro; every other code, reserved ones included, is 2 (R120). -/
theorem family_eq (tm : BitVec 5) : family tm = if tm.toNat < 2 then 0 else if tm.toNat < 4 then 1 else 2 := by
  unfold family
  by_cases hlin : tm.toNat < 2
  · rw [if_pos (mem_linearCodes_iff.mpr hlin), if_pos hlin]
  · have hmicro : tm ∈ microCodes ↔ tm.toNat < 4 :=
      mem_microCodes_iff.trans (and_iff_right (Nat.not_lt.mp hlin))
    rw [if_neg (mt mem_linearCodes_iff.mp hlin), if_neg hlin]
    exact if_congr hmicro rfl rfl

theorem thickness_eq (tm : BitVec 5) :
    thickness tm = if tm.toNat ∈ [3, 7, 11, 13, 15] then 4 else if tm.toNat ∈ [16, 17] then 8 else 1 :=
  if_congr mem_thick4Codes_iff rfl (if_congr mem_thick8Codes_iff rfl rfl)

theorem aspect_eq (tm : BitVec 5) :
    aspect tm = if tm.toNat ∈ [5, 9] then 2 else if tm.toNat ∈ [6, 10] then 4 else 1 :=
  if_congr mem_aspect2Codes_iff rfl (if_congr mem_aspect4Codes_iff rfl rfl)

/-! ## The four operations -/

section
variable (s : State)

/-- TM.FAMILY has one outcome: the family goes to `RES.VALUE`. -/
theorem exec_tmFamily : exec .tmFamily s = .next (s.setValue (family s.descTileMode)) := rfl

/-- TM.THICK has one outcome: the thickness goes to `RES.VALUE`. -/
theorem exec_tmThick : exec .tmThick s = .next (s.setValue (thickness s.descTileMode)) := rfl

/-- TM.ASPECT has one outcome: the aspect ratio goes to `RES.VALUE`. -/
theorem exec_tmAspect : exec .tmAspect s = .next (s.setValue (aspect s.descTileMode)) := rfl

/-- TM.BSWE has one outcome: the eligibility goes to `RES.VALUE` as 0 or 1. -/
theorem exec_tmBswe :
    exec .tmBswe s = .next (s.setValue (if bankSwapEligible s.descTileMode then 1 else 0)) := rfl

end

/-- Settles O10: the linear and the micro codes are the first two and the next two. -/
theorem tmFamilyResult : Obligations.TmFamilyResult := by
  unfold Obligations.TmFamilyResult
  intro s
  rw [exec_tmFamily, family_eq, State.setValue]

/-- Settles O11: the two thick sets, read as numbers. -/
theorem tmThickResult : Obligations.TmThickResult := by
  unfold Obligations.TmThickResult
  intro s
  rw [exec_tmThick, thickness_eq, State.setValue]

/-- Settles O12: the two aspect sets, read as numbers. -/
theorem tmAspectResult : Obligations.TmAspectResult := by
  unfold Obligations.TmAspectResult
  intro s
  rw [exec_tmAspect, aspect_eq, State.setValue]

/-- Settles O13: the bank-swapped set, read as numbers. -/
theorem tmBsweResult : Obligations.TmBsweResult := by
  unfold Obligations.TmBsweResult
  intro s
  rw [exec_tmBswe, if_congr bankSwapEligible_iff rfl rfl, State.setValue]

end Sys2Proof.Machine
end

section
/-! ADDR.LIN (spec/43_linear_address.md R160): the product in full, then one division. -/

namespace Sys2Proof.Machine

/-- ADDR.LIN has one outcome: the linear address goes to `RES.VALUE`. -/
theorem exec_addrLin (s : State) :
    exec .addrLin s =
      .next (s.setValue (addrLinear s.oprX.toNat s.oprY.toNat s.oprBpp.toNat s.descPitch.toNat)) := rfl

/-- Settles O22: the one outcome of ADDR.LIN, with the calculator's formula (R160) written out. -/
theorem addrLinResult : Obligations.AddrLinResult := by
  unfold Obligations.AddrLinResult
  intro s
  rw [exec_addrLin, addrLinear, State.setValue]

end Sys2Proof.Machine
end

section
/-! The address that ADDR.MACRO assembles (spec/45_macrotile_address.md R198): format TADDR
(spec/30_encoding.md R86) as a sum with disjoint fields. -/

namespace Sys2Proof.Machine

/-! ## Reading the fields of a TADDR -/

theorem taddrOffsetLow_eq_mod (a : Nat) : taddrOffsetLow a = a % 256 := by
  simp [taddrOffsetLow, bitField]

theorem taddrPipe_eq_div_mod (a : Nat) : taddrPipe a = a / 256 % 2 := by
  simp [taddrPipe, bitField, Nat.shiftRight_eq_div_pow]

theorem taddrBank_eq_div_mod (a : Nat) : taddrBank a = a / 512 % 4 := by
  simp [taddrBank, bitField, Nat.shiftRight_eq_div_pow]

theorem taddrGroup_eq_div (a : Nat) : taddrGroup a = a / 2048 := by
  simp [taddrGroup, Nat.shiftRight_eq_div_pow]

/-! ## Assembling -/

/-- An OR onto a shifted number is a sum when the other number fits below the shift: the fields do not overlap. -/
theorem shiftLeft_or_eq_mul_add {a b i : Nat} (hb : b < 2 ^ i) : a <<< i ||| b = a * 2 ^ i + b := by
  rw [← Nat.shiftLeft_add_eq_or_of_lt hb, Nat.shiftLeft_eq]

/-- `totalOffset & groupMask` is the byte inside the 256-byte group (R198). -/
theorem and_groupMask_eq_mod (total : Nat) : total &&& Config.groupMask = total % 256 :=
  Nat.and_two_pow_sub_one_eq_mod total 8

/-- R198's `offsetHigh` is the group number shifted to bit 11. -/
theorem offsetHigh_eq_shiftLeft (total : Nat) :
    ((total >>> Config.groupBits) <<< Config.groupBits) <<< Config.swizzleBits = (total / 256) <<< 11 := by
  rw [← Nat.shiftLeft_add, Nat.shiftRight_eq_div_pow]
  rfl

/-- R198 as a sum: each part lies below the place of the next, from the low offset up to the group number. -/
theorem assembleAddress_eq_sum {bank pipe : Nat} (hbank : bank < 4) (hpipe : pipe < 2) (total : Nat) :
    assembleAddress bank pipe total = total / 256 * 2048 + (bank * 512 + (pipe * 256 + total % 256)) := by
  have hlow : total % 256 < 2 ^ 8 := Nat.mod_lt total (Nat.two_pow_pos 8)
  have hpipeLow : pipe * 2 ^ 8 + total % 256 < 2 ^ 9 := by linarith
  have hbankLow : bank * 2 ^ 9 + (pipe * 2 ^ 8 + total % 256) < 2 ^ 11 := by linarith
  calc assembleAddress bank pipe total
      = bank <<< 9 ||| pipe <<< 8 ||| total % 256 ||| (total / 256) <<< 11 := by
        rw [assembleAddress, offsetHigh_eq_shiftLeft, and_groupMask_eq_mod]
        rfl
    _ = (total / 256) <<< 11 ||| (bank <<< 9 ||| (pipe <<< 8 ||| total % 256)) := by
        rw [Nat.or_comm, Nat.or_assoc]
    _ = total / 256 * 2 ^ 11 + (bank * 2 ^ 9 + (pipe * 2 ^ 8 + total % 256)) := by
        rw [shiftLeft_or_eq_mul_add hlow, shiftLeft_or_eq_mul_add hpipeLow, shiftLeft_or_eq_mul_add hbankLow]

/-- Settles O30: on R198's sum, each field read is the quotient and remainder that isolates its part. -/
theorem taddrFieldsDoNotOverlap : Obligations.TaddrFieldsDoNotOverlap := by
  unfold Obligations.TaddrFieldsDoNotOverlap
  intro bank pipe total hbank hpipe
  rw [assembleAddress_eq_sum hbank hpipe, taddrOffsetLow_eq_mod, taddrPipe_eq_div_mod, taddrBank_eq_div_mod,
    taddrGroup_eq_div]
  refine ⟨?_, ?_, ?_, ?_⟩ <;> omega

end Sys2Proof.Machine
end

section
/-! The decoder and the encoder (spec/30_encoding.md R81, R82, R88, R89): two row lists and one code for each row. -/

namespace Sys2Proof

/-! ## Rows and codes -/

/-- Every row of format OP stands at its own code. -/
theorem encode_decodeOp (c : BitVec 4) : encode (decodeOp c) = (.op, c.toNat) := by
  revert c; decide

/-- Every row of format TM stands at its own code. -/
theorem encode_decodeTm (c : BitVec 5) : encode (decodeTm c) = (.tm, c.toNat) := by
  revert c; decide

theorem decode_op_of_lt {w : Nat} (h : w < 16) : decode .op w = .ok (decodeOp (BitVec.ofNat 4 w)) := if_pos h

theorem decode_tm_of_lt {w : Nat} (h : w < 32) : decode .tm w = .ok (decodeTm (BitVec.ofNat 5 w)) := if_pos h

theorem decode_op_of_ge {w : Nat} (h : 16 ≤ w) : decode .op w = .error .widerThanFourBits := if_neg (by omega)

theorem decode_tm_of_ge {w : Nat} (h : 32 ≤ w) : decode .tm w = .error .widerThanFiveBits := if_neg (by omega)

/-- The one way a word is an operation code. -/
theorem decode_op_ok_iff {w : Nat} {i : Instr} :
    decode .op w = .ok i ↔ w < 16 ∧ decodeOp (BitVec.ofNat 4 w) = i := by
  by_cases h : w < 16
  · simp [decode_op_of_lt h, h]
  · simp [decode_op_of_ge (Nat.not_lt.mp h), h]

/-- The one way a word is a tile-mode code. -/
theorem decode_tm_ok_iff {w : Nat} {i : Instr} :
    decode .tm w = .ok i ↔ w < 32 ∧ decodeTm (BitVec.ofNat 5 w) = i := by
  by_cases h : w < 32
  · simp [decode_tm_of_lt h, h]
  · simp [decode_tm_of_ge (Nat.not_lt.mp h), h]

/-- What `CMD.OP` holds names one operation. -/
theorem decode_op_toNat_iff {c : BitVec 4} {i : Instr} : decode .op c.toNat = .ok i ↔ decodeOp c = i := by
  simp [decode_op_ok_iff, c.isLt]

/-- What `DESC.TILE_MODE` holds names one row. -/
theorem decode_tm_toNat_iff {c : BitVec 5} {i : Instr} : decode .tm c.toNat = .ok i ↔ decodeTm c = i := by
  simp [decode_tm_ok_iff, c.isLt]

/-! ## The round trips -/

/-- Each of the 48 rows decodes at the code that the encoder gives it. -/
theorem decode_encode (i : Instr) : decode (encode i).1 (encode i).2 = .ok i := by
  cases i <;> rfl

/-- A word that decodes is the code of what it decodes to. -/
theorem encode_of_decode {space : CodeSpace} {w : Nat} {i : Instr} (h : decode space w = .ok i) :
    encode i = (space, w) := by
  cases space with
  | op =>
    obtain ⟨hw, rfl⟩ := decode_op_ok_iff.mp h
    rw [encode_decodeOp, BitVec.toNat_ofNat, Nat.mod_eq_of_lt hw]
  | tm =>
    obtain ⟨hw, rfl⟩ := decode_tm_ok_iff.mp h
    rw [encode_decodeTm, BitVec.toNat_ofNat, Nat.mod_eq_of_lt hw]

/-- Settles O4: one direction is checked at each row, the other at each code; a code outside its format has no row. -/
theorem decodeAndEncodeAgree : Obligations.DecodeAndEncodeAgree := by
  unfold Obligations.DecodeAndEncodeAgree
  exact ⟨decode_encode, fun _ _ _ h => encode_of_decode h, fun _ h => decode_op_of_ge h,
    fun _ h => decode_tm_of_ge h⟩

/-- Settles O5: each of the twelve words is looked up in its row list. -/
theorem writtenWordsDecode : Obligations.WrittenWordsDecode := by
  unfold Obligations.WrittenWordsDecode
  exact ⟨rfl, rfl, rfl, rfl, rfl, rfl, rfl, rfl, rfl, rfl, rfl, rfl⟩

end Sys2Proof
end

section
/-! The four kinds of meaning (spec/30_encoding.md R88): a unit operation delivers one calculation to `RES.VALUE`, an
element mapping delivers a tiled offset to the mapping registers, a transform walks the extent, and a reserved operation
is refused. What an instruction leaves unchanged, and what every step keeps, follow from the kind. -/

namespace Sys2Proof.Machine

/-! ## Kinds of meaning -/

/-- What runs under an instruction, the operands already read. -/
inductive Meaning where
  /-- one calculation for `RES.VALUE` -/
  | unit (c : Calc)
  /-- MAP.ELEM's effect under a tile-mode code -/
  | mapping (tm : BitVec 5)
  /-- the walk over the extent -/
  | walk (dir : Direction)
  /-- none (R91) -/
  | reserved (op : BitVec 4)

/-- The meaning of each operation on a state; every other instruction is a row of format TM, which maps under its own
code. -/
def meaningOf (i : Instr) (s : State) : Meaning :=
  match i with
  | .fmtBpp => .unit (.value (formatBpp s.fmtRom s.descFormat))
  | .fmtIsbc => .unit (.value (if isBlockCompressed s.descFormat then 1 else 0))
  | .tmFamily => .unit (.value (family s.descTileMode))
  | .tmThick => .unit (.value (thickness s.descTileMode))
  | .tmAspect => .unit (.value (aspect s.descTileMode))
  | .tmBswe => .unit (.value (if bankSwapEligible s.descTileMode then 1 else 0))
  | .tmBsww => .unit (bankSwapWidth s.descTileMode s.oprBpp.toNat s.descPitch.toNat)
  | .pixIdx => .unit (.value
      (pixelIndex s.oprX.toNat s.oprY.toNat s.oprZ.toNat s.oprBpp.toNat s.descTileMode))
  | .addrLin => .unit (.value (addrLinear s.oprX.toNat s.oprY.toNat s.oprBpp.toNat s.descPitch.toNat))
  | .addrMicro => .unit (.value (addrMicro s.oprX.toNat s.oprY.toNat s.oprBpp.toNat s.descPitch.toNat
      s.descHeight.toNat s.descTileMode))
  | .addrMacro => .unit (addrMacro s.oprX.toNat s.oprY.toNat s.oprBpp.toNat s.descPitch.toNat s.descHeight.toNat
      s.descTileMode (pipeSwizzleOf s.descSwizzle) (bankSwizzleOf s.descSwizzle))
  | .mapElem => .mapping s.descTileMode
  | .xformSwz => .walk .toTiled
  | .xformDswz => .walk .toLinear
  | .opReserved14 => .reserved 14#4
  | .opReserved15 => .reserved 15#4
  | row => .mapping (BitVec.ofNat 5 (encode row).2)

/-- The run of a meaning. -/
def Meaning.run (m : Meaning) (s : State) : Host.Outcome State Fault Refusal :=
  match m with
  | .unit c => deliver State.setValue c s
  | .mapping tm => mapElement tm s
  | .walk dir => transform dir s
  | .reserved op => .refused (.reservedOperation op)

/-- Each instruction runs its meaning. -/
theorem exec_eq_run (i : Instr) (s : State) : exec i s = (meaningOf i s).run s := by
  cases i <;> rfl

/-- A row of format TM is MAP.ELEM's effect under the row's code. -/
theorem exec_decodeTm (tm : BitVec 5) (s : State) : exec (decodeTm tm) s = mapElement tm s := by
  rcases tm with ⟨k, hk⟩
  interval_cases k <;> rfl

section
variable {i : Instr} {s : State}

/-- The transforms alone walk the extent. -/
theorem eq_xform_of_walk {dir : Direction} (h : meaningOf i s = .walk dir) : i = .xformSwz ∨ i = .xformDswz := by
  cases i <;> simp_all [meaningOf]

/-- MAP.ELEM and the rows of format TM alone map an element. -/
theorem eq_mapElem_or_row_of_mapping {tm : BitVec 5} (h : meaningOf i s = .mapping tm) :
    i = .mapElem ∨ (encode i).1 = .tm := by
  cases i <;> simp_all [meaningOf, encode]

/-- A unit operation is an operation code, no MAP.ELEM and no transform. -/
theorem not_mapping_of_unit {c : Calc} (h : meaningOf i s = .unit c) :
    (encode i).1 = .op ∧ i ≠ .mapElem ∧ i ≠ .xformSwz ∧ i ≠ .xformDswz := by
  cases i <;> simp_all [meaningOf, encode]

end

/-! ## What an instruction leaves unchanged -/

/-- A delivery writes the result and the count of values drawn. -/
theorem eq_put_of_deliver {put : Nat → State → State} {c : Calc} {s t : State} (h : deliver put c s = .next t) :
    ∃ n k, t = put n { s with freeCount := k } := by
  obtain ⟨n, -, rfl⟩ | ⟨-, rfl⟩ := deliver_next_iff.mp h
  · exact ⟨n, s.freeCount, rfl⟩
  · exact ⟨_, _, rfl⟩

/-- Everything an instruction that completes can do, by its kind; what a walk leaves in `DST` is canonical and of `LEN`
bytes. -/
theorem exec_next_cases {i : Instr} {s t : State} (h : exec i s = .next t) :
    (∃ c n k, meaningOf i s = .unit c ∧ t = State.setValue n { s with freeCount := k })
    ∨ (∃ tm l e n k, meaningOf i s = .mapping tm ∧ t = State.setMapped l e n { s with freeCount := k })
    ∨ (∃ dir d y x, meaningOf i s = .walk dir ∧ t = State.endTransform d y x s ∧ d.wf = true
        ∧ d.below s.len = true) := by
  rw [exec_eq_run] at h
  cases hm : meaningOf i s with
  | unit c =>
    rw [hm] at h
    obtain ⟨n, k, rfl⟩ := eq_put_of_deliver h
    exact .inl ⟨c, n, k, rfl, rfl⟩
  | mapping tm =>
    rw [hm] at h
    obtain ⟨n, k, rfl⟩ := eq_put_of_deliver h
    exact .inr (.inl ⟨tm, _, _, n, k, rfl, rfl⟩)
  | walk dir =>
    rw [hm] at h
    obtain ⟨c, d, hd, rfl⟩ := transform_next_iff.mp h
    exact .inr (.inr ⟨dir, d, _, _, rfl, rfl, copyElements_wf rfl hd, copyElements_below rfl hd⟩)
  | reserved op =>
    rw [hm] at h
    cases h

/-- Settles O49: no kind of meaning writes an operand. -/
theorem operationsLeaveTheirOperands : Obligations.OperationsLeaveTheirOperands := by
  unfold Obligations.OperationsLeaveTheirOperands
  intro i s t h
  obtain ⟨_, _, _, _, rfl⟩ | ⟨_, _, _, _, _, _, rfl⟩ | ⟨_, _, _, _, _, rfl, _⟩ := exec_next_cases h
  · simp
  · simp
  · simp

/-- Settles O50: a unit operation and an element mapping write result registers, and only the transforms walk. -/
theorem onlyTransformsWriteTheBuffer : Obligations.OnlyTransformsWriteTheBuffer := by
  unfold Obligations.OnlyTransformsWriteTheBuffer
  intro i s t hswz hdswz h
  obtain ⟨_, _, _, _, rfl⟩ | ⟨_, _, _, _, _, _, rfl⟩ | ⟨_, _, _, _, hwalk, _⟩ := exec_next_cases h
  · simp
  · simp
  · exact absurd (eq_xform_of_walk hwalk) (by simp [hswz, hdswz])

/-- Settles O51: `RES.VALUE` belongs to the unit operations and the mapping registers to the element mappings; a
transform's end writes neither. -/
theorem resultRegistersHoldTheLastResult : Obligations.ResultRegistersHoldTheLastResult := by
  unfold Obligations.ResultRegistersHoldTheLastResult
  intro i s t h
  obtain ⟨_, _, _, hunit, rfl⟩ | ⟨_, _, _, _, _, hmap, rfl⟩ | ⟨_, _, _, _, _, rfl, _⟩ := exec_next_cases h
  · obtain ⟨hop, hne⟩ := not_mapping_of_unit hunit
    exact ⟨fun _ _ => ⟨rfl, rfl, rfl⟩, fun hnot => by simp [hop, hne] at hnot⟩
  · refine ⟨fun hop hne => ?_, fun _ => rfl⟩
    rcases eq_mapElem_or_row_of_mapping hmap with he | htm
    · exact absurd he hne
    · rw [hop] at htm
      cases htm
  · exact ⟨fun _ _ => ⟨rfl, rfl, rfl⟩, fun _ => rfl⟩

/-- The transforms are the walks of the two directions. -/
theorem mem_xform_iff {i : Instr} :
    i ∈ [Instr.xformSwz, .xformDswz] ↔ i = .xformSwz ∨ i = .xformDswz := by simp

/-- Settles O52: a transform that completes is a walk, whose buffer lists no index at or above `LEN`. -/
theorem transformsStayInsideTheBuffer : Obligations.TransformsStayInsideTheBuffer := by
  unfold Obligations.TransformsStayInsideTheBuffer
  intro s t i hi h
  obtain ⟨_, _, _, hunit, _⟩ | ⟨_, _, _, _, _, hmap, _⟩ | ⟨_, d, _, _, _, rfl, _, hbelow⟩ := exec_next_cases h
  · obtain ⟨-, -, hswz, hdswz⟩ := not_mapping_of_unit hunit
    simp [hswz, hdswz] at hi
  · rcases mem_xform_iff.mp hi with rfl | rfl <;> cases hmap
  · exact ⟨rfl, rfl, fun a ha => Memory.read_eq_zero_of_below hbelow ha⟩

/-! ## The invariant -/

theorem State.wf_iff {s : State} :
    s.wf = true ↔ s.src.wf = true ∧ s.src.below s.len = true ∧ s.dst.wf = true ∧ s.dst.below s.len = true
      ∧ fmtRomWf s.fmtRom = true := by
  simp [State.wf, and_assoc]

/-- The invariant is about the two buffers, their length and the table alone. -/
theorem State.wf_congr {s t : State} (hsrc : t.src = s.src) (hdst : t.dst = s.dst) (hlen : t.len = s.len)
    (hrom : t.fmtRom = s.fmtRom) : t.wf = s.wf := by
  simp only [State.wf, hsrc, hdst, hlen, hrom]

/-- An instruction that completes keeps the invariant: a walk leaves a canonical buffer of `LEN` bytes, and no other
kind writes one. -/
theorem exec_keeps_wf {i : Instr} {s t : State} (hs : s.wf = true) (h : exec i s = .next t) : t.wf = true := by
  obtain ⟨_, _, _, _, rfl⟩ | ⟨_, _, _, _, _, _, rfl⟩ | ⟨_, d, _, _, _, rfl, hwf, hbelow⟩ := exec_next_cases h
  · exact hs
  · exact hs
  · obtain ⟨hsrc, hsrcBelow, -, -, hrom⟩ := State.wf_iff.mp hs
    exact State.wf_iff.mpr ⟨hsrc, hsrcBelow, hwf, hbelow, hrom⟩

/-- A property of states that each part of a step keeps: taking a host move off the list, a register write with its mark,
a load, a reading, the write of `CMD.OP` by a `RUN`, and an instruction that completes. -/
structure KeptByParts (P : State → Prop) : Prop where
  host : ∀ s rest, P s → P { s with host := rest }
  set : ∀ s n v, P s → P (markWritten (writeRegister s n v) n)
  load : ∀ s bytes, P s → P (hostLoad bytes s)
  get : ∀ s reading, P s → P { s with reading := reading }
  command : ∀ s op, P s → P (markWritten { s with cmdOp := op } 6#4)
  exec : ∀ i s t, P s → exec i s = .next t → P t

/-- What each part of a step keeps, every step keeps, by the host move that it takes. -/
theorem step_keeps {P : State → Prop} (hP : KeptByParts P) {s t : State} (hs : P s) (h : step s = .next t) : P t := by
  have hmove := fun rest => hP.host s rest hs
  rcases step_next_cases h with ⟨_, rfl⟩ | ⟨n, v, rest, _, hset⟩ | ⟨bs, rest, _, rfl⟩ | ⟨src, rest, _, hget⟩
    | ⟨rest, _, _, hexec⟩ | ⟨op, rest, _, _, hexec⟩
  · exact hs
  · obtain ⟨w, _, _, rfl⟩ := hostSet_next_iff.mp hset
    exact hP.set _ n v (hmove rest)
  · exact hP.load _ bs (hmove rest)
  · obtain ⟨_, rfl⟩ | ⟨_, _, _, _, rfl⟩ := hostGet_next_iff.mp hget
    · exact hP.get _ _ (hmove rest)
    · exact hP.get _ _ (hmove rest)
  · exact hP.exec _ _ t (hmove rest) hexec
  · exact hP.exec _ _ t (hP.command _ op (hmove rest)) hexec

/-- A load lays out canonical bytes and cuts `DST` to the new length. -/
theorem hostLoad_keeps_wf {bytes : List Byte} {s : State} (hs : s.wf = true) : (hostLoad bytes s).wf = true := by
  obtain ⟨-, -, hdst, -, hrom⟩ := State.wf_iff.mp hs
  exact State.wf_iff.mpr ⟨Memory.wf_ofBytes bytes, Memory.below_ofBytes bytes, Memory.wf_truncate hdst _,
    Memory.below_truncate _ _, hrom⟩

/-- A register write touches no buffer. -/
theorem set_keeps_wf {s : State} (n : BitVec 4) (v : Nat) (hs : s.wf = true) :
    (markWritten (writeRegister s n v) n).wf = true := by
  rw [State.wf_congr (s := s) (by simp) (by simp) (by simp) (by simp)]
  exact hs

/-- Settles O53: loads and walks write the buffers, and each leaves them canonical and of `LEN` bytes. -/
theorem everyStepKeepsTheInvariant : Obligations.EveryStepKeepsTheInvariant := by
  unfold Obligations.EveryStepKeepsTheInvariant
  have hkept : KeptByParts fun s => s.wf = true :=
    { host := fun _ _ hs => hs
      set := fun _ n v hs => set_keeps_wf n v hs
      load := fun _ _ hs => hostLoad_keeps_wf hs
      get := fun _ _ hs => hs
      command := fun _ _ hs => hs
      exec := fun _ _ _ hs h => exec_keeps_wf hs h }
  exact fun s t hs h => step_keeps hkept hs h

/-! ## The format table -/

theorem fmtRomWf_iff {rom : Memory} :
    fmtRomWf rom = true ↔ rom.wf = true ∧ rom.below 256 = true
      ∧ ∀ c ∈ rom, c.1 % 4 = 0 → c.2.toNat % 8 = 0 := by
  simp [fmtRomWf, and_assoc, imp_iff_not_or]

/-- What a memory reads is zero or listed. -/
theorem Memory.read_eq_zero_or_mem (m : Memory) (a : Nat) : m.read a = 0#8 ∨ (a, m.read a) ∈ m := by
  induction m with
  | nil => exact .inl rfl
  | cons c rest ih =>
    obtain ⟨k, v⟩ := c
    by_cases hk : k = a
    · simp [Memory.read, hk]
    · simp only [Memory.read, hk, if_false]
      exact ih.imp id (List.mem_cons_of_mem _)

/-- The units of the open table are multiples of 8 (spec/40_format_metadata.md R112). -/
theorem fmtRomByte_mod_eight {index : Nat} (h : index % 4 = 0) : (fmtRomByte index).toNat % 8 = 0 := by
  rw [fmtRomByte, if_pos h, BitVec.toNat_ofNat]
  omega

/-- The table at reset has the spec's shape for every content of its open bytes. -/
theorem fmtRomWf_romImage : fmtRomWf (romImage fmtRomByte) = true := by
  refine fmtRomWf_iff.mpr ⟨romImage_wf _, ?below, fun c hc hrec => ?record⟩
  case below =>
    simp only [Memory.below, List.all_eq_true, decide_eq_true_eq]
    exact fun c hc => (mem_romImage hc).1
  case record =>
    rw [(mem_romImage hc).2]
    exact fmtRomByte_mod_eight hrec

/-- Settles O54: both buffers are empty at reset, and the table has the spec's shape. -/
theorem resetMeetsTheInvariant : Obligations.ResetMeetsTheInvariant := by
  unfold Obligations.ResetMeetsTheInvariant
  exact State.wf_iff.mpr ⟨rfl, rfl, rfl, rfl, fmtRomWf_romImage⟩

/-- Byte 0 of every record of a well-formed table is a multiple of 8, an unlisted one being 0. -/
theorem formatBpp_mod_eight {rom : Memory} (h : fmtRomWf rom = true) (format : Word) :
    formatBpp rom format % 8 = 0 := by
  obtain ⟨-, -, hrec⟩ := fmtRomWf_iff.mp h
  rw [formatBpp_eq_read]
  rcases Memory.read_eq_zero_or_mem rom (4 * (format.toNat % 64)) with hzero | hmem
  · simp [hzero]
  · exact hrec _ hmem (Nat.mul_mod_right _ _)

theorem formatBpp_lt (rom : Memory) (format : Word) : formatBpp rom format < 256 :=
  (rom.read (romIndex format)).isLt

/-- Settles O55: the largest multiple of 8 that a byte holds is 248. -/
theorem formatBppIsAMultipleOfEight : Obligations.FormatBppIsAMultipleOfEight := by
  unfold Obligations.FormatBppIsAMultipleOfEight
  intro s hs
  obtain ⟨-, -, -, -, hrom⟩ := State.wf_iff.mp hs
  have hmod := formatBpp_mod_eight hrom s.descFormat
  have hlt := formatBpp_lt s.fmtRom s.descFormat
  refine ⟨_, exec_fmtBpp s, hmod, ?_⟩
  rw [setValue_resValue]
  omega

/-! ## The table as an argument -/

/-- No instruction writes the parameter. -/
theorem exec_next_toParameters {i : Instr} {s t : State} (h : exec i s = .next t) :
    t.toParameters = s.toParameters := by
  obtain ⟨_, _, _, _, rfl⟩ | ⟨_, _, _, _, _, _, rfl⟩ | ⟨_, _, _, _, _, rfl, _⟩ := exec_next_cases h <;> rfl

/-- Writing a register writes no parameter. -/
theorem writeRegister_toParameters (s : State) (r : BitVec 4) (v : Nat) :
    (writeRegister s r v).toParameters = s.toParameters := by
  have hrom := writeRegister_fmtRom s r v
  exact congrArg Parameters.mk hrom

/-- No step writes the parameter (spec/10_state.md R40). -/
theorem step_next_toParameters {s t : State} (h : step s = .next t) : t.toParameters = s.toParameters := by
  have hkept : KeptByParts fun u => u.toParameters = s.toParameters :=
    { host := fun _ _ hu => hu
      set := fun u n v hu => (writeRegister_toParameters u n v).trans hu
      load := fun _ _ hu => hu
      get := fun _ _ hu => hu
      command := fun _ _ hu => hu
      exec := fun _ _ _ hu hexec => (exec_next_toParameters hexec).trans hu }
  exact step_keeps hkept rfl h

section
variable {p : Parameters} {r r' : BlockRun}

/-- A state whose parameter is `p` is `p` packed with its block's run. -/
theorem eq_packed {t : State} (h : t.toParameters = p) : t = { toParameters := p, toBlockRun := t.toBlockRun } := by
  subst h
  rfl

/-- A packed outcome keeps its parameter, so it has a next state exactly where the unpacked one has. -/
theorem exists_packed_iff {o : Host.Outcome State Fault Refusal} (h : ∀ t, o = .next t → t.toParameters = p) :
    (∃ t, o = .next t ∧ t.toBlockRun = r') ↔ o = .next { toParameters := p, toBlockRun := r' } := by
  refine ⟨?_, fun ho => ⟨_, ho, rfl⟩⟩
  rintro ⟨t, ho, rfl⟩
  rw [ho, ← eq_packed (h t ho)]

theorem execFor_next_iff_exec {i : Instr} :
    execFor p i r = .next r' ↔
      exec i { toParameters := p, toBlockRun := r } = .next { toParameters := p, toBlockRun := r' } :=
  execFor_next_iff.trans (exists_packed_iff fun _ h => exec_next_toParameters h)

theorem stepFor_next_iff_step :
    stepFor p r = .next r' ↔
      step { toParameters := p, toBlockRun := r } = .next { toParameters := p, toBlockRun := r' } :=
  stepFor_next_iff.trans (exists_packed_iff fun _ h => step_next_toParameters h)

end

/-- The one way a run of `k + 1` steps has a next state. -/
theorem run_succ_next_iff {M : Host.Core} {k : Nat} {s t : M.State} :
    M.run (k + 1) s = .next t ↔ ∃ u, M.step s = .next u ∧ M.run k u = .next t := by
  simp only [Host.Core.run]
  cases M.step s <;> simp

/-- Runs of any length agree, one step at a time. -/
theorem run_coreFor_next_iff {p : Parameters} (n : Nat) (r r' : BlockRun) :
    Host.Core.run (coreFor p) n r = .next r' ↔
      Host.Core.run Sys2Proof.core n { toParameters := p, toBlockRun := r }
        = .next { toParameters := p, toBlockRun := r' } := by
  induction n generalizing r with
  | zero => exact ⟨fun h => by cases h; rfl, fun h => by cases h; rfl⟩
  | succ n ih =>
    refine (run_succ_next_iff (M := coreFor p)).trans (Iff.trans ?_ (run_succ_next_iff (M := Sys2Proof.core)).symm)
    constructor
    · rintro ⟨u, hstep, hrun⟩
      exact ⟨_, stepFor_next_iff_step.mp hstep, (ih u).mp hrun⟩
    · rintro ⟨u, hstep, hrun⟩
      have hu := eq_packed (step_next_toParameters hstep)
      rw [hu] at hstep hrun
      exact ⟨u.toBlockRun, stepFor_next_iff_step.mpr hstep, (ih _).mpr hrun⟩

/-- Settles O56: every step keeps the parameter, so packing it beside the state changes no meaning, step or run. -/
theorem noStepWritesTheFormatTable : Obligations.NoStepWritesTheFormatTable := by
  unfold Obligations.NoStepWritesTheFormatTable
  exact ⟨fun _ _ h => congrArg Parameters.fmtRom (step_next_toParameters h),
    fun _ _ _ => ⟨fun _ => execFor_next_iff_exec, stepFor_next_iff_step, fun n => run_coreFor_next_iff n _ _⟩⟩

end Sys2Proof.Machine
end

section
/-! The host's moves (spec/30_encoding.md R98), the start among them (spec/10_state.md R31, R39). -/

namespace Sys2Proof.Machine

/-! ## Idle, reset -/

/-- Settles O2: with no move to come a step takes none. -/
theorem idleBlockHoldsItsState : Obligations.IdleBlockHoldsItsState := by
  unfold Obligations.IdleBlockHoldsItsState
  intro s hs
  simp only [step, hs]

/-- Every register that exists reads zero at reset (log entry 1). -/
theorem readRegister_reset : ∀ n : BitVec 4, n ≠ 7#4 → readRegister State.reset n = some 0 := by
  decide

/-- Settles O6: the reset state has no move to come, and every register number but 7 names a zero. -/
theorem resetLeavesAnIdleBlock : Obligations.ResetLeavesAnIdleBlock := by
  unfold Obligations.ResetLeavesAnIdleBlock
  exact ⟨rfl, idleBlockHoldsItsState _ rfl, rfl, fun _ => rfl, fun _ => rfl, readRegister_reset⟩

/-! ## The start -/

/-- The thickness is above 1 on the thick codes. -/
theorem one_lt_thickness_iff {tm : BitVec 5} : 1 < thickness tm ↔ tm.toNat ∈ [3, 7, 11, 13, 15, 16, 17] := by
  revert tm; decide

section
variable {i : Instr} {s : State}

/-- TM.BSWW reads bpp and the pitch on an eligible mode only (log entry 21). -/
theorem startRegisters_tmBsww :
    startRegisters .tmBsww s = if bankSwapEligible s.descTileMode then [6, 3, 11, 5] else [6, 3] := by
  unfold startRegisters unreadOperands
  cases bankSwapEligible s.descTileMode <;> rfl

/-- PIX.IDX reads `OPR.Z` on a thick mode only (log entry 21). -/
theorem startRegisters_pixIdx :
    startRegisters .pixIdx s = if 1 < thickness s.descTileMode then [6, 8, 9, 10, 11, 3] else [6, 8, 9, 11, 3] := by
  unfold startRegisters unreadOperands
  by_cases h : 1 < thickness s.descTileMode
  · simp only [h, if_true]; rfl
  · simp only [h, if_false]; rfl

/-- The registers a start reads are, by number, those of the table of operations. -/
theorem mem_startReads_iff (hop : (encode i).1 = .op) {n : Nat} :
    n ∈ Expected.startReads i s ↔ n ∈ (startRegisters i s).map BitVec.toNat := by
  cases i <;> cases hop
  case tmBsww =>
    rw [startRegisters_tmBsww, Expected.startReads]
    by_cases he : s.descTileMode.toNat ∈ [8, 9, 10, 11, 14, 15]
    · rw [if_pos he, if_pos (bankSwapEligible_iff.mpr he)]
      exact List.Perm.mem_iff (by decide)
    · rw [if_neg he, if_neg (mt bankSwapEligible_iff.mp he)]
      exact List.Perm.mem_iff (by decide)
  case pixIdx =>
    rw [startRegisters_pixIdx, Expected.startReads]
    by_cases ht : s.descTileMode.toNat ∈ [3, 7, 11, 13, 15, 16, 17]
    · rw [if_pos ht, if_pos (one_lt_thickness_iff.mpr ht)]
      exact List.Perm.mem_iff (by decide)
    · rw [if_neg ht, if_neg (mt one_lt_thickness_iff.mp ht)]
      exact List.Perm.mem_iff (by decide)
  all_goals
    simp [Expected.startReads, startRegisters, operandRegisters, unreadOperands, or_comm, or_left_comm, or_assoc]

/-- The test of a start, by the table of operations. -/
theorem hostWroteOperands_iff_startReads (hop : (encode i).1 = .op) :
    hostWroteOperands i s = true ↔ ∀ n ∈ Expected.startReads i s, s.written.getLsbD n = true := by
  simp only [hostWroteOperands_iff, mem_startReads_iff hop, List.forall_mem_map]

/-- A start runs the operation that `CMD.OP` decodes to when the host has written what the table names, and is refused
when it has not. -/
theorem startOperation_of_decode (hdec : decode .op s.cmdOp.toNat = .ok i) :
    ((∀ n ∈ Expected.startReads i s, s.written.getLsbD n = true) → startOperation s = exec i s)
    ∧ ((∃ n ∈ Expected.startReads i s, s.written.getLsbD n = false) →
      startOperation s = .refused .registerNeverWritten) := by
  obtain rfl := decode_op_toNat_iff.mp hdec
  have hop : (encode (decodeOp s.cmdOp)).1 = .op := by rw [encode_decodeOp]
  refine ⟨fun hall => startOperation_written ((hostWroteOperands_iff_startReads hop).mpr hall), fun hex => ?_⟩
  obtain ⟨n, hn, hmark⟩ := hex
  refine startOperation_unwritten (Bool.eq_false_iff.mpr fun htest => ?_)
  rw [(hostWroteOperands_iff_startReads hop).mp htest n hn] at hmark
  cases hmark

end

/-- A start with `CMD.OP` never written is refused whatever it holds (log entry 2). -/
theorem startOperation_cmdOp_unwritten {s : State} (h : s.written.getLsbD 6 = false) :
    startOperation s = .refused .registerNeverWritten := by
  refine startOperation_unwritten (Bool.eq_false_iff.mpr fun htest => ?_)
  have hmark := hostWroteOperands_iff.mp htest 6#4 List.mem_cons_self
  rw [show (6#4).toNat = 6 from rfl, h] at hmark
  cases hmark

/-- The mark of register 6 is the only one that a `RUN` sets. -/
theorem getLsbD_or_mark_six (m : BitVec 16) (n : Nat) :
    (m ||| 0x0040#16).getLsbD n = (m.getLsbD n || decide (n = 6)) := by
  have hbit : (0x0040#16).getLsbD n = decide (n = 6) := by
    by_cases hn : n < 16
    · revert n; decide
    · rw [BitVec.getLsbD_of_ge _ _ (by omega)]
      simp; omega
  rw [BitVec.getLsbD_or, hbit]

/-- Settles O1: a bare start is the start on the rest of the moves, and a `RUN` is the start with `CMD.OP` and its mark
written, which leaves register 6 out of what is asked for. -/
theorem stepRunsTheDecodedOperation : Obligations.StepRunsTheDecodedOperation := by
  unfold Obligations.StepRunsTheDecodedOperation
  intro s rest i
  refine ⟨fun hhost hdec _ => ?start, fun hhost hcmd => ?unwritten, fun op hhost hdec _ => ?run⟩
  case start =>
    rw [step_of_host_start hhost]
    exact startOperation_of_decode (s := { s with host := rest }) hdec
  case unwritten =>
    rw [step_of_host_start hhost]
    exact startOperation_cmdOp_unwritten (s := { s with host := rest }) hcmd
  case run =>
    rw [step_of_host_run hhost]
    obtain ⟨hwritten, hunwritten⟩ :=
      startOperation_of_decode (s := markWritten { s with host := rest, cmdOp := op } 6#4) hdec
    have hmark : ∀ n, (markWritten { s with host := rest, cmdOp := op } 6#4).written.getLsbD n
        = (s.written.getLsbD n || decide (n = 6)) := getLsbD_or_mark_six s.written
    simp only [hmark, Bool.or_eq_true, Bool.or_eq_false_iff, decide_eq_true_eq, decide_eq_false_iff_not]
      at hwritten hunwritten
    refine ⟨fun hall => hwritten fun n hn => ?_, fun ⟨n, hn, hne, hno⟩ => hunwritten ⟨n, hn, hno, hne⟩⟩
    by_cases hsix : n = 6
    · exact .inr hsix
    · exact .inl (hall n hn hsix)

/-! ## Register writes and reads -/

/-- A register reads the value written to it, where the host writes it and the value fits. -/
theorem readRegister_writeRegister_same {n : BitVec 4} {v w : Nat} (s : State) (hw : hostWriteWidth n = some w)
    (hv : v < 2 ^ w) : readRegister (writeRegister s n v) n = some v := by
  rcases n with ⟨k, hk⟩
  interval_cases k <;> cases hw <;>
    exact congrArg some ((BitVec.toNat_ofNat _ _).trans (Nat.mod_eq_of_lt hv))

/-- Every other register reads as before. -/
theorem readRegister_writeRegister_of_ne {n m : BitVec 4} (s : State) (v : Nat) (h : m ≠ n) :
    readRegister (writeRegister s n v) m = readRegister s m := by
  obtain ⟨k, hk, rfl⟩ : ∃ k < 16, m = BitVec.ofNat 4 k := ⟨m.toNat, m.isLt, by simp⟩
  interval_cases k <;>
    simp [readRegister, Ne.symm h, writeRegister_descWidth, writeRegister_descHeight, writeRegister_descFormat,
      writeRegister_descTileMode, writeRegister_descSwizzle, writeRegister_descPitch, writeRegister_cmdOp,
      writeRegister_oprX, writeRegister_oprY, writeRegister_oprZ, writeRegister_oprBpp]

/-- A mark is one bit. -/
theorem getLsbD_one_shiftLeft :
    ∀ (n : BitVec 4) (k : Nat), k < 16 → (1#16 <<< n.toNat).getLsbD k = (k == n.toNat) := by
  decide

/-- Marking a register sets its mark and no other. -/
theorem markWritten_getLsbD (s : State) (n : BitVec 4) {k : Nat} (hk : k < 16) :
    (markWritten s n).written.getLsbD k = (s.written.getLsbD k || k == n.toNat) := by
  rw [markWritten_written, BitVec.getLsbD_or, getLsbD_one_shiftLeft n k hk]

/-- A `SET` of a value that fits has one outcome. -/
theorem hostSet_of_fits {n : BitVec 4} {v w : Nat} (s : State) (hw : hostWriteWidth n = some w) (hv : v < 2 ^ w) :
    hostSet n v s = .next (markWritten (writeRegister s n v) n) :=
  hostSet_next_iff.mpr ⟨w, hw, hv, rfl⟩

/-! ## The moves as steps -/

section
variable {s : State} {rest : List HostMove}

theorem step_of_host_set {n : BitVec 4} {v : Nat} (h : s.host = .set n v :: rest) :
    step s = hostSet n v { s with host := rest } := by
  simp only [step, h]

theorem step_of_host_load {bytes : List Byte} (h : s.host = .load bytes :: rest) :
    step s = .next (hostLoad bytes { s with host := rest }) := by
  simp only [step, h]

theorem step_of_host_get {source : Source} (h : s.host = .get source :: rest) :
    step s = hostGet source { s with host := rest } := by
  simp only [step, h]

end

/-- Settles O57: a `SET` is one register write and one mark; reading a register does not look at the marks. -/
theorem setWritesOneRegister : Obligations.SetWritesOneRegister := by
  unfold Obligations.SetWritesOneRegister
  intro s rest n v w hhost hw hv
  refine ⟨_, (step_of_host_set hhost).trans (hostSet_of_fits _ hw hv),
    readRegister_writeRegister_same { s with host := rest } hw hv,
    fun m hm => readRegister_writeRegister_of_ne { s with host := rest } v hm, fun k hk => ?_, ?_⟩
  · rw [markWritten_getLsbD _ _ hk, writeRegister_written]
  · simp

/-- The numbers that the host may not write have no width. -/
theorem hostWriteWidth_eq_none {n : BitVec 4} (h : n.toNat ∈ [7, 12, 13, 14, 15]) : hostWriteWidth n = none := by
  revert n; decide

/-- Settles O58: no width, a value above the width, and number 7. -/
theorem movesTheSpecLacksAreRefused : Obligations.MovesTheSpecLacksAreRefused := by
  unfold Obligations.MovesTheSpecLacksAreRefused
  refine fun s rest n v => ⟨fun hhost hn => ?noRegister, fun w hhost hw hv => ?tooWide, fun hhost => ?noRead⟩
  case noRegister => rw [step_of_host_set hhost, hostSet, hostWriteWidth_eq_none hn]
  case tooWide => simp only [step_of_host_set hhost, hostSet, hw, Nat.not_lt.mpr hv, if_false]
  case noRead =>
    rw [step_of_host_get hhost]
    rfl

/-- What a truncated buffer reads. -/
theorem Memory.read_truncate (m : Memory) (n a : Nat) :
    (m.truncate n).read a = if a < n then m.read a else 0#8 := by
  induction m with
  | nil => simp [Memory.truncate]
  | cons c rest ih =>
    obtain ⟨k, v⟩ := c
    simp only [Memory.truncate] at ih
    by_cases hkn : k < n
    · by_cases hka : k = a
      · subst hka
        simp [Memory.truncate, Memory.read, hkn]
      · simp [Memory.truncate, Memory.read, hkn, hka, ih]
    · have hka : a < n → k ≠ a := by omega
      by_cases han : a < n
      · simp [Memory.truncate, Memory.read, hkn, ih, han, hka han]
      · simp [Memory.truncate, hkn, ih, han]

/-- Settles O59: the source is laid out byte by byte and `DST` is cut to the new length. -/
theorem loadSuppliesTheSource : Obligations.LoadSuppliesTheSource := by
  unfold Obligations.LoadSuppliesTheSource
  intro s rest bs hhost
  exact ⟨_, step_of_host_load hhost, rfl, Memory.read_ofBytes bs, Memory.read_truncate s.dst bs.length,
    fun _ => rfl, rfl, rfl, rfl⟩

/-- Settles O60: by what the `GET` names. -/
theorem getHandsOverTheValue : Obligations.GetHandsOverTheValue := by
  unfold Obligations.GetHandsOverTheValue
  refine fun s rest => ⟨fun hhost => ?dst, fun n v hhost hread => ?register⟩
  case dst =>
    rw [step_of_host_get hhost]
    exact hostGet_next_iff.mpr (.inl ⟨rfl, rfl⟩)
  case register =>
    rw [step_of_host_get hhost]
    exact hostGet_next_iff.mpr (.inr ⟨n, v, rfl, hread, rfl⟩)

end Sys2Proof.Machine
end

section
/-! FMT.ISBC (spec/40_format_metadata.md R114) and the bank-swap width (spec/41_tile_mode_metadata.md R126 to R137). -/

namespace Sys2Proof.Machine

/-! ## FMT.ISBC -/

theorem isBlockCompressed_iff {format : Word} :
    isBlockCompressed format = true ↔
      format.toNat ∈ [0x031, 0x431, 0x032, 0x432, 0x033, 0x433, 0x034, 0x234, 0x035, 0x235] := by
  rw [isBlockCompressed, List.contains_iff_mem]
  exact (List.mem_map_of_injective (l := bcSet) BitVec.toNat_injective).symm

/-- FMT.ISBC has one outcome: the membership goes to `RES.VALUE` as 0 or 1. -/
theorem exec_fmtIsbc (s : State) :
    exec .fmtIsbc s = .next (s.setValue (if isBlockCompressed s.descFormat then 1 else 0)) := rfl

/-- Settles O9: the whole code is compared with the ten members. -/
theorem fmtIsbcTestsTheWholeCode : Obligations.FmtIsbcTestsTheWholeCode := by
  unfold Obligations.FmtIsbcTestsTheWholeCode
  refine fun s => ⟨fun hmem => ?_, fun hmem => ?_⟩
  · rw [exec_fmtIsbc, if_pos (isBlockCompressed_iff.mpr hmem), State.setValue]
  · rw [exec_fmtIsbc, if_neg (mt isBlockCompressed_iff.mp hmem), State.setValue]

/-! ## Halving -/

/-- R133's loop, with enough fuel: the width halved `k` times, `k` being the first number of halvings that brings it
below twice the pitch. -/
theorem halveWhile_spec {pitch : Nat} (hp : 0 < pitch) {fuel w : Nat} (hfuel : w ≤ fuel) :
    ∃ k, halveWhile fuel pitch w = w / 2 ^ k ∧ w / 2 ^ k < 2 * pitch ∧ ∀ j < k, 2 * pitch ≤ w / 2 ^ j := by
  induction fuel generalizing w with
  | zero => exact ⟨0, by simp [halveWhile], by simp; omega, by simp⟩
  | succ fuel ih =>
    by_cases hw : 2 * pitch ≤ w
    · have hhalf : w >>> 1 = w / 2 := Nat.shiftRight_one w
      obtain ⟨k, heq, hlt, hfirst⟩ := ih (w := w >>> 1) (by omega)
      have hdiv : ∀ j, w >>> 1 / 2 ^ j = w / 2 ^ (j + 1) := fun j => by
        rw [hhalf, Nat.div_div_eq_div_mul, Nat.pow_succ']
      rw [hdiv] at heq hlt
      refine ⟨k + 1, by rw [halveWhile, if_pos hw, heq], hlt, fun j hj => ?_⟩
      cases j with
      | zero => simpa using hw
      | succ j => exact hdiv j ▸ hfirst j (by omega)
    · exact ⟨0, by simp [halveWhile, hw], by simpa using hw, by simp⟩

/-- A width already below twice the pitch is not halved. -/
theorem halveWhile_of_lt {fuel pitch w : Nat} (h : w < 2 * pitch) : halveWhile fuel pitch w = w := by
  cases fuel <;> simp [halveWhile, h]

/-- A width of at least 1 is never halved below 1: the last halving starts at twice the pitch or more. -/
theorem one_le_of_halved {pitch w k : Nat} (hp : 1 ≤ pitch) (hw : 1 ≤ w) (h : ∀ j < k, 2 * pitch ≤ w / 2 ^ j) :
    1 ≤ w / 2 ^ k := by
  cases k with
  | zero => simpa using hw
  | succ k =>
    have hlast := h k (Nat.lt_succ_self k)
    rw [Nat.pow_succ, ← Nat.div_div_eq_div_mul]
    omega

/-! ## The clamped width -/

section
variable {tm : BitVec 5}

/-- The samples of an eligible mode: 4 on codes 11 and 15 (R128). -/
theorem swapSamples_of_eligible (h : bankSwapEligible tm = true) :
    swapSamples tm = if tm.toNat ∈ [11, 15] then 4 else 1 := by
  revert tm; decide

/-- The clamped width in closed form, `slicesPerTile` being 1 (R129 to R133). -/
theorem clampedSwapWidth_eq (tm : BitVec 5) (bpp : Nat) :
    clampedSwapWidth tm bpp = Expected.clampedWidth bpp (swapSamples tm) (aspect tm) := by
  simp only [clampedSwapWidth, swapMax, swapMin, swapWidth, heightBytes, bytesPerTileSlice, slicesPerTile_eq_one,
    Expected.clampedWidth, Nat.div_one, Nat.mul_assoc]
  rfl

/-- An eligible mode takes at most 4 samples, aspect ratios counted in. -/
theorem swapSamples_mul_aspect_le (h : bankSwapEligible tm = true) : swapSamples tm * aspect tm ≤ 4 := by
  revert tm; decide

theorem swapSamples_mul_aspect_pos (tm : BitVec 5) : 0 < swapSamples tm * aspect tm := by
  revert tm; decide

/-- Up to 248 bits per element the clamped width is at least 1: the upper clamp divides 16384 by no more than
`4 * 2 * 248`. -/
theorem one_le_clampedSwapWidth (h : bankSwapEligible tm = true) {bpp : Nat} (hb : 1 ≤ bpp) (hb' : bpp ≤ 248) :
    1 ≤ clampedSwapWidth tm bpp := by
  have hle : swapSamples tm * aspect tm * 2 * bpp ≤ 4 * 2 * 248 :=
    Nat.mul_le_mul (Nat.mul_le_mul_right 2 (swapSamples_mul_aspect_le h)) hb'
  have hpos : 0 < swapSamples tm * aspect tm * 2 * bpp :=
    Nat.mul_pos (Nat.mul_pos (swapSamples_mul_aspect_pos tm) Nat.two_pos) hb
  have hmax : 1 ≤ 16384 / (swapSamples tm * aspect tm * 2 * bpp) :=
    (Nat.one_le_div_iff hpos).mpr (hle.trans (by decide))
  rw [clampedSwapWidth_eq, Expected.clampedWidth]
  omega

end

/-! ## TM.BSWW -/

/-- TM.BSWW has one outcome: the width is delivered to `RES.VALUE`. -/
theorem exec_tmBsww (s : State) :
    exec .tmBsww s =
      deliver State.setValue (bankSwapWidth s.descTileMode s.oprBpp.toNat s.descPitch.toNat) s := rfl

/-- A calculation with a value is delivered as it is. -/
theorem deliver_value (put : Nat → State → State) (n : Nat) (s : State) :
    deliver put (.value n) s = .next (put n s) := rfl

/-- A calculation without a specified value delivers a free one (log entry 8). -/
theorem deliver_unspecified (put : Nat → State → State) (s : State) :
    deliver put .unspecified s =
      .next (put (Config.freeNat s.freeCount) { s with freeCount := s.freeCount + 1 }) := rfl

theorem not_eligible_of_not_mem {tm : BitVec 5} (h : tm.toNat ∉ [8, 9, 10, 11, 14, 15]) :
    bankSwapEligible tm = false :=
  Bool.eq_false_iff.mpr (mt bankSwapEligible_iff.mp h)

/-- Settles O14: R126's first line. -/
theorem tmBswwZeroWhenNotEligible : Obligations.TmBswwZeroWhenNotEligible := by
  unfold Obligations.TmBswwZeroWhenNotEligible
  intro s h
  rw [exec_tmBsww, bankSwapWidth_ineligible (not_eligible_of_not_mem h), deliver_value, State.setValue]

/-- Settles O15: the loop's number of halvings is the first that brings the clamped width below twice the pitch. -/
theorem tmBswwHalvesTheClampedWidth : Obligations.TmBswwHalvesTheClampedWidth := by
  unfold Obligations.TmBswwHalvesTheClampedWidth
  intro s hmem hbpp hpitch
  have helig := bankSwapEligible_iff.mpr hmem
  obtain ⟨k, heq, hlt, hfirst⟩ :=
    halveWhile_spec hpitch (le_refl (clampedSwapWidth s.descTileMode s.oprBpp.toNat))
  rw [clampedSwapWidth_eq, swapSamples_of_eligible helig] at heq hlt hfirst
  refine ⟨k, ?_, hlt, hfirst⟩
  rw [exec_tmBsww, bankSwapWidth_value helig hbpp hpitch, clampedSwapWidth_eq, swapSamples_of_eligible helig, heq,
    deliver_value, State.setValue]

/-- Settles O16: the loop ends below twice the pitch, and its last halving starts at twice the pitch or more. -/
theorem bankSwapWidthBound : Obligations.BankSwapWidthBound := by
  unfold Obligations.BankSwapWidthBound
  intro tm bpp pitch hb _ hp
  cases he : bankSwapEligible tm with
  | false => exact ⟨0, bankSwapWidth_ineligible he _ _, by omega, by simp⟩
  | true =>
    obtain ⟨k, heq, hlt, hfirst⟩ := halveWhile_spec hp (le_refl (clampedSwapWidth tm bpp))
    refine ⟨_, (bankSwapWidth_value he hb hp).trans (congrArg Calc.value heq), hlt, fun _ _ hb' => ?_⟩
    exact one_le_of_halved hp (one_le_clampedSwapWidth he hb hb') hfirst

/-- On an eligible mode a clamped width below twice the pitch is the bank-swap width. -/
theorem bankSwapWidth_of_clamped_lt {tm : BitVec 5} {bpp pitch : Nat} (he : bankSwapEligible tm = true) (hb : 0 < bpp)
    (h : clampedSwapWidth tm bpp < 2 * pitch) : bankSwapWidth tm bpp pitch = .value (clampedSwapWidth tm bpp) := by
  rw [bankSwapWidth_value he hb (by omega), halveWhile_of_lt h]

/-- The 36 entries of R137's table are clamped widths. -/
theorem clampedSwapWidth_table :
    ∀ row ∈ [((8 : BitVec 5), [512, 256, 128, 64, 32, 32]), (9, [512, 256, 128, 64, 32, 32]),
        (10, [256, 128, 64, 32, 21, 16]), (11, [256, 128, 64, 32, 21, 16]),
        (14, [512, 256, 128, 64, 32, 32]), (15, [256, 128, 64, 32, 21, 16])],
      ∀ entry ∈ [8, 16, 32, 64, 96, 128].zip row.2,
        bankSwapEligible row.1 = true ∧ 0 < entry.1 ∧ clampedSwapWidth row.1 entry.1 = entry.2 := by
  decide

/-- Settles O17: the table holds the clamped widths, and a pitch larger than half of one halves nothing. -/
theorem bankSwapWidthTable : Obligations.BankSwapWidthTable := by
  unfold Obligations.BankSwapWidthTable
  refine ⟨fun row hrow entry hentry pitch hlt => ?_, fun tm bpp pitch h => ?_⟩
  · obtain ⟨he, hb, hw⟩ := clampedSwapWidth_table row hrow entry hentry
    rw [← hw] at hlt ⊢
    exact bankSwapWidth_of_clamped_lt he hb hlt
  · exact bankSwapWidth_ineligible (not_eligible_of_not_mem h) bpp pitch

end Sys2Proof.Machine
end

section
/-! The pixel interleaver (spec/42_pixel_interleaver.md R140 to R147): six bits of the coordinates in the order of the
class's table, and above them the slice `z` within the thickness. -/

namespace Sys2Proof.Machine

/-! ## The interleaved bits -/

theorem bitField_self (b v : Nat) : bitField b b v = Expected.bit v b := by
  simp [bitField, Expected.bit, Nat.shiftRight_eq_div_pow]

theorem expectedBit_lt (v b : Nat) : Expected.bit v b < 2 := Nat.mod_lt _ Nat.two_pos

/-- The coordinate bit that a table's entry names. -/
theorem coordBit_x (x y b : Nat) : coordBit x y (.x, b) = Expected.bit x b := bitField_self b x

theorem coordBit_y (x y b : Nat) : coordBit x y (.y, b) = Expected.bit y b := bitField_self b y

theorem coordBit_lt (x y : Nat) (entry : Axis × Nat) : coordBit x y entry < 2 := by
  obtain ⟨axis, b⟩ := entry
  cases axis with
  | x => exact coordBit_x x y b ▸ expectedBit_lt x b
  | y => exact coordBit_y x y b ▸ expectedBit_lt y b

/-- From output bit `i` on, R140's loop sets no bit below `i`. -/
theorem exists_interleave_eq_shiftLeft (x y i : Nat) (table : List (Axis × Nat)) :
    ∃ q, interleave x y i table = q <<< i := by
  induction table generalizing i with
  | nil => exact ⟨0, (Nat.zero_shiftLeft i).symm⟩
  | cons entry rest ih =>
    obtain ⟨q, hq⟩ := ih (i + 1)
    exact ⟨coordBit x y entry ||| q <<< 1, by
      rw [interleave, hq, Nat.shiftLeft_or_distrib, ← Nat.shiftLeft_add, Nat.add_comm 1 i]⟩

/-- R140's loop is a number in base 2: each bit lies below the bits that come after it. -/
theorem interleave_cons (x y i : Nat) (entry : Axis × Nat) (rest : List (Axis × Nat)) :
    interleave x y i (entry :: rest) = coordBit x y entry * 2 ^ i + interleave x y (i + 1) rest := by
  obtain ⟨q, hq⟩ := exists_interleave_eq_shiftLeft x y (i + 1) rest
  have hlow : coordBit x y entry <<< i < 2 ^ (i + 1) := by
    have hbit := coordBit_lt x y entry
    rw [Nat.shiftLeft_eq, Nat.pow_succ, Nat.mul_comm (2 ^ i)]
    exact Nat.mul_lt_mul_of_pos_right hbit (Nat.two_pow_pos i)
  rw [interleave, hq, Nat.or_comm, shiftLeft_or_eq_mul_add hlow, Nat.shiftLeft_eq, Nat.shiftLeft_eq, Nat.add_comm]

/-- The six bits of a class's table. -/
def pixelLow (cls : BppClass) (x y : Nat) : Nat := interleave x y 0 (ilv cls)

/-- Six entries make six bits. -/
theorem interleave_six (x y : Nat) (a b c d e f : Axis × Nat) :
    interleave x y 0 [a, b, c, d, e, f] = Expected.sixBits (coordBit x y a) (coordBit x y b) (coordBit x y c)
      (coordBit x y d) (coordBit x y e) (coordBit x y f) := by
  simp only [interleave_cons, Expected.sixBits]
  simp only [interleave]
  ring

/-- The tables of R144 as expected, the two classes for 32 and for any other bpp being the same. -/
theorem pixelLow_eq_expected (x y bpp : Nat) : pixelLow (bppClass bpp) x y = Expected.pixel x y 0 bpp 1 := by
  have hz : Expected.pixel x y 0 bpp 1 =
      if bpp = 8 then pixelLow .c8 x y else if bpp = 16 then pixelLow .c16 x y
      else if bpp = 64 then pixelLow .c64 x y else if bpp = 128 then pixelLow .c128 x y else pixelLow .cdef x y := by
    simp [Expected.pixel, pixelLow, ilv, interleave_six, coordBit_x, coordBit_y]
  have hcdef : pixelLow .c32 x y = pixelLow .cdef x y := rfl
  rw [hz, bppClass]
  split_ifs <;> simp_all

theorem sixBits_lt {a b c d e f : Nat} (ha : a < 2) (hb : b < 2) (hc : c < 2) (hd : d < 2) (he : e < 2)
    (hf : f < 2) : Expected.sixBits a b c d e f < 64 := by
  rw [Expected.sixBits]
  omega

/-- Every table has six entries. -/
theorem exists_ilv_eq (cls : BppClass) : ∃ a b c d e f, ilv cls = [a, b, c, d, e, f] := by
  cases cls <;> exact ⟨_, _, _, _, _, _, rfl⟩

theorem pixelLow_lt (cls : BppClass) (x y : Nat) : pixelLow cls x y < 64 := by
  obtain ⟨a, b, c, d, e, f, hilv⟩ := exists_ilv_eq cls
  rw [pixelLow, hilv, interleave_six]
  exact sixBits_lt (coordBit_lt x y a) (coordBit_lt x y b) (coordBit_lt x y c) (coordBit_lt x y d)
    (coordBit_lt x y e) (coordBit_lt x y f)

theorem expectedBit_mod_eight (v : Nat) {b : Nat} (h : b < 3) : Expected.bit (v % 8) b = Expected.bit v b := by
  simp only [Expected.bit]
  interval_cases b <;> omega

/-- Every entry of a table names one of three bits, so only three bits of a coordinate are read (R146). -/
theorem pixelLow_mod_eight (cls : BppClass) (x y : Nat) : pixelLow cls (x % 8) (y % 8) = pixelLow cls x y := by
  cases cls <;> simp [pixelLow, ilv, interleave_six, coordBit_x, coordBit_y, expectedBit_mod_eight]

/-! ## The slice bits -/

theorem thickness_cases (tm : BitVec 5) : thickness tm = 1 ∨ thickness tm = 4 ∨ thickness tm = 8 := by
  revert tm; decide

theorem thickness_pos (tm : BitVec 5) : 0 < thickness tm := by
  rcases thickness_cases tm with h | h | h <;> omega

/-- R141's z bits stand above the six bits and hold the slice within the thickness. -/
theorem zBits_eq (z : Nat) (tm : BitVec 5) : zBits z tm = (z % thickness tm) <<< 6 := by
  have hlow : Expected.bit z 0 <<< 6 < 2 ^ 7 := by
    have hbit := expectedBit_lt z 0
    rw [Nat.shiftLeft_eq]
    omega
  have hmid : Expected.bit z 0 <<< 6 ||| Expected.bit z 1 <<< 7 = (z % 4) * 64 := by
    rw [Nat.or_comm, shiftLeft_or_eq_mul_add hlow, Nat.shiftLeft_eq]
    simp only [Expected.bit]
    omega
  rcases thickness_cases tm with h | h | h
  · simp [zBits, h, Nat.mod_one]
  · rw [zBits, h, if_pos (by decide), if_neg (by decide), bitField_self, bitField_self, hmid, Nat.or_zero,
      Nat.shiftLeft_eq]
  · have hhigh : (z % 4) * 64 < 2 ^ 8 := by omega
    rw [zBits, h, if_pos (by decide), if_pos rfl, bitField_self, bitField_self, bitField_self, hmid, Nat.or_comm,
      shiftLeft_or_eq_mul_add hhigh, Nat.shiftLeft_eq]
    simp only [Expected.bit]
    omega

/-- The index: the slice above the six bits. -/
theorem pixelIndex_eq (x y z bpp : Nat) (tm : BitVec 5) :
    pixelIndex x y z bpp tm = (z % thickness tm) * 64 + pixelLow (bppClass bpp) x y := by
  rw [pixelIndex, zBits_eq, Nat.or_comm]
  exact shiftLeft_or_eq_mul_add (pixelLow_lt (bppClass bpp) x y)

/-- In slice 0 the index is the six bits, whatever the tile mode. -/
theorem pixelIndex_zero (x y bpp : Nat) (tm : BitVec 5) :
    pixelIndex x y 0 bpp tm = pixelLow (bppClass bpp) x y := by
  rw [pixelIndex_eq, Nat.zero_mod, Nat.zero_mul, Nat.zero_add]

/-- The expected index has its slice bits above the six bits too. -/
theorem expectedPixel_eq (x y z bpp : Nat) (tm : BitVec 5) :
    Expected.pixel x y z bpp (thickness tm) = (z % thickness tm) * 64 + Expected.pixel x y 0 bpp 1 := by
  have hslice : ∀ t, t = 1 ∨ t = 4 ∨ t = 8 →
      (if 1 < t then 64 * Expected.bit z 0 + 128 * Expected.bit z 1 else 0) + (if t = 8 then 256 * Expected.bit z 2 else 0)
        = (z % t) * 64 := by
    rintro t (rfl | rfl | rfl) <;> simp [Expected.bit] <;> omega
  have h := hslice (thickness tm) (thickness_cases tm)
  simp only [Expected.pixel] at h ⊢
  simp only [Nat.lt_irrefl, if_false, OfNat.one_ne_ofNat]
  omega

/-- PIX.IDX has one outcome: the index goes to `RES.VALUE`. -/
theorem exec_pixIdx (s : State) :
    exec .pixIdx s = .next (s.setValue
      (pixelIndex s.oprX.toNat s.oprY.toNat s.oprZ.toNat s.oprBpp.toNat s.descTileMode)) := rfl

/-- Settles O19: the six bits are the table's and the slice stands above them, in the model and in the expected
value. -/
theorem pixIdxFollowsTheTables : Obligations.PixIdxFollowsTheTables := by
  unfold Obligations.PixIdxFollowsTheTables
  intro s
  rw [exec_pixIdx, pixelIndex_eq, pixelLow_eq_expected, expectedPixel_eq, State.setValue]

/-- Settles O21: the tables name bits 0 to 2 only, and six bits and a slice below the thickness bound the index. -/
theorem pixelIndexReadsLowBitsAndIsBounded : Obligations.PixelIndexReadsLowBitsAndIsBounded := by
  unfold Obligations.PixelIndexReadsLowBitsAndIsBounded
  intro x y z bpp tm
  have hlow := pixelLow_lt (bppClass bpp) x y
  have hz := Nat.mod_lt z (thickness_pos tm)
  refine ⟨?_, ?_, pixelIndex_zero x y bpp tm ▸ hlow⟩
  · rw [pixelIndex_eq, pixelIndex_eq, pixelLow_mod_eight]
  · rw [pixelIndex_eq]
    omega

/-! ## Bijectivity -/

/-- The coordinate that a table takes its bits from, put together again from output bit `i` on. -/
def deinterleave (axis : Axis) (v : Nat) : Nat → List (Axis × Nat) → Nat
  | _, [] => 0
  | i, entry :: rest =>
    (if entry.1 = axis then Expected.bit v i * 2 ^ entry.2 else 0) + deinterleave axis v (i + 1) rest

/-- A coordinate of the position that a table gives an index. -/
def pixelCoord (cls : BppClass) (axis : Axis) (v : Nat) : Nat := deinterleave axis v 0 (ilv cls)

/-- Each table names bits 0 to 2 of both coordinates once each, so a position can be read from its index. -/
theorem pixelCoord_pixelLow (cls : BppClass) :
    ∀ x < 8, ∀ y < 8, pixelCoord cls .x (pixelLow cls x y) = x ∧ pixelCoord cls .y (pixelLow cls x y) = y := by
  cases cls <;> decide

/-- Every six bits are the index of a position. -/
theorem pixelLow_pixelCoord (cls : BppClass) :
    ∀ v < 64, pixelCoord cls .x v < 8 ∧ pixelCoord cls .y v < 8
      ∧ pixelLow cls (pixelCoord cls .x v) (pixelCoord cls .y v) = v := by
  cases cls <;> decide

/-- The six bits tell positions of a tile apart. -/
theorem pixelLow_inj {cls : BppClass} {x y x' y' : Nat} (h : pixelLow cls x y = pixelLow cls x' y') :
    x % 8 = x' % 8 ∧ y % 8 = y' % 8 := by
  have hlt : ∀ v, v % 8 < 8 := fun v => Nat.mod_lt v (by decide)
  rw [← pixelLow_mod_eight, ← pixelLow_mod_eight cls x' y'] at h
  obtain ⟨hx, hy⟩ := pixelCoord_pixelLow cls _ (hlt x) _ (hlt y)
  obtain ⟨hx', hy'⟩ := pixelCoord_pixelLow cls _ (hlt x') _ (hlt y')
  exact ⟨hx ▸ hx' ▸ h ▸ rfl, hy ▸ hy' ▸ h ▸ rfl⟩

/-- Settles O20: quotient and remainder by 64 are the slice and the six bits, and a table's six bits are one position. -/
theorem pixelIndexBijective : Obligations.PixelIndexBijective := by
  unfold Obligations.PixelIndexBijective
  intro bpp tm v hv
  have hslice : v / 64 < thickness tm := by omega
  obtain ⟨hx, hy, hlow⟩ := pixelLow_pixelCoord (bppClass bpp) (v % 64) (Nat.mod_lt v (by decide))
  refine ⟨(pixelCoord (bppClass bpp) .x (v % 64), pixelCoord (bppClass bpp) .y (v % 64), v / 64),
    ⟨⟨hx, hy, hslice⟩, ?_⟩, ?_⟩
  · rw [pixelIndex_eq, hlow, Nat.mod_eq_of_lt hslice]
    omega
  · rintro ⟨x, y, z⟩ ⟨⟨hx', hy', hz'⟩, hval⟩
    simp only at hx' hy' hz' hval
    rw [pixelIndex_eq, Nat.mod_eq_of_lt hz'] at hval
    have hlt := pixelLow_lt (bppClass bpp) x y
    have hz : z = v / 64 := by omega
    have hsame : pixelLow (bppClass bpp) x y = v % 64 := by omega
    obtain ⟨ex, ey⟩ := pixelCoord_pixelLow (bppClass bpp) x hx' y hy'
    rw [hsame] at ex ey
    rw [ex, ey, hz]

end Sys2Proof.Machine
end

section
/-! ADDR.MICRO (spec/44_microtile_address.md R165 to R174): whole tiles in row-major order, and inside a tile the pixel
index. -/

namespace Sys2Proof.Machine

/-! ## The closed form -/

/-- A number of bits that is a multiple of 8 is that many bytes. -/
theorem cdiv8_mul_eight (n : Nat) : cdiv8 (8 * n) = n := by
  rw [cdiv8]
  omega

theorem microThickness_eq (tm : BitVec 5) : microThickness tm = if tm.toNat = 3 then 4 else 1 :=
  if_congr BitVec.toNat_inj.symm rfl rfl

/-- The bytes of a tile, without a ceiling (R167). -/
theorem microTileByteSize_eq (bpp : Nat) (tm : BitVec 5) : microTileByteSize bpp tm = 8 * microThickness tm * bpp := by
  rw [microTileByteSize, ← cdiv8_mul_eight (8 * microThickness tm * bpp)]
  congr 1
  ring

/-- R165 to R172 with quotients. -/
theorem addrMicro_eq_expected (x y bpp pitch height : Nat) (tm : BitVec 5) :
    addrMicro x y bpp pitch height tm = Expected.micro x y bpp pitch (microThickness tm) := by
  rw [addrMicro, microTileByteSize_eq, microTileIndex, pixelIndex_zero, pixelLow_eq_expected, Expected.micro]
  simp only [Nat.shiftRight_eq_div_pow, Nat.reducePow]

/-- ADDR.MICRO has one outcome: the micro-tiled address goes to `RES.VALUE`. -/
theorem exec_addrMicro (s : State) :
    exec .addrMicro s = .next (s.setValue (addrMicro s.oprX.toNat s.oprY.toNat s.oprBpp.toNat s.descPitch.toNat
      s.descHeight.toNat s.descTileMode)) := rfl

/-- Settles O23: the calculator's closed form under its own thickness. -/
theorem addrMicroResult : Obligations.AddrMicroResult := by
  unfold Obligations.AddrMicroResult
  intro s
  rw [exec_addrMicro, addrMicro_eq_expected, microThickness_eq, State.setValue]

/-! ## Slots -/

/-- Row-major numbering tells positions with the column inside the row apart. -/
theorem row_major_inj {w col row col' row' : Nat} (hcol : col < w) (hcol' : col' < w)
    (h : col + row * w = col' + row' * w) : col = col' ∧ row = row' := by
  have hw : 0 < w := by omega
  have hmod := congrArg (· % w) h
  have hdiv := congrArg (· / w) h
  simp only [Nat.add_mul_mod_self_right, Nat.mod_eq_of_lt hcol, Nat.mod_eq_of_lt hcol'] at hmod
  simp only [Nat.add_mul_div_right _ _ hw, Nat.div_eq_of_lt hcol, Nat.div_eq_of_lt hcol', Nat.zero_add] at hdiv
  exact ⟨hmod, hdiv⟩

/-- The element slot of a position in a surface with `tiles` micro tiles to a row: 64 slots to a tile. -/
def microSlot (cls : BppClass) (tiles x y : Nat) : Nat := 64 * (x / 8 + y / 8 * tiles) + pixelLow cls x y

/-- In mode 2, with whole bytes to an element, an address is a slot times the element's bytes. -/
theorem addrMicro_mode_two_eq_slot (e tiles x y height : Nat) :
    addrMicro x y (8 * e) (8 * tiles) height 2#5 = microSlot (bppClass (8 * e)) tiles x y * e := by
  have hpixel : 8 * e * pixelLow (bppClass (8 * e)) x y / 8 = pixelLow (bppClass (8 * e)) x y * e := by
    rw [Nat.mul_assoc, Nat.mul_div_cancel_left _ (by decide), Nat.mul_comm]
  have hthick : microThickness 2#5 = 1 := rfl
  rw [addrMicro, microTileByteSize_eq, hthick, microTileIndex, pixelIndex_zero, hpixel, microSlot]
  simp only [Nat.shiftRight_eq_div_pow, Nat.reducePow, Nat.mul_div_cancel_left _ (Nat.succ_pos 7)]
  ring

/-- Slots tell positions of a surface apart: the tile by the quotient by 64, and the position in it by the pixel
index. -/
theorem microSlot_inj {cls : BppClass} {tiles x y x' y' : Nat} (hx : x < 8 * tiles) (hx' : x' < 8 * tiles)
    (h : microSlot cls tiles x y = microSlot cls tiles x' y') : x = x' ∧ y = y' := by
  have hlt := pixelLow_lt cls x y
  have hlt' := pixelLow_lt cls x' y'
  rw [microSlot, microSlot] at h
  obtain ⟨hmodx, hmody⟩ := pixelLow_inj (show pixelLow cls x y = pixelLow cls x' y' by omega)
  have htile : x / 8 + y / 8 * tiles = x' / 8 + y' / 8 * tiles := by omega
  obtain ⟨hdivx, hdivy⟩ := row_major_inj (by omega) (by omega) htile
  omega

/-- Every slot of a surface of `tiles` by `rows` micro tiles is taken. -/
theorem exists_microSlot_eq (cls : BppClass) {tiles rows v : Nat} (hv : v < 8 * tiles * (8 * rows)) :
    ∃ x y, x < 8 * tiles ∧ y < 8 * rows ∧ microSlot cls tiles x y = v := by
  have htile : v / 64 < tiles * rows := by
    rw [Nat.div_lt_iff_lt_mul (by decide)]
    calc v < 8 * tiles * (8 * rows) := hv
      _ = tiles * rows * 64 := by ring
  have htiles : 0 < tiles := Nat.pos_of_ne_zero fun h => by simp [h] at htile
  have hcol : v / 64 % tiles < tiles := Nat.mod_lt _ htiles
  have hrow : v / 64 / tiles < rows := Nat.div_lt_of_lt_mul htile
  obtain ⟨hx, hy, hlow⟩ := pixelLow_pixelCoord cls (v % 64) (Nat.mod_lt v (by decide))
  refine ⟨8 * (v / 64 % tiles) + pixelCoord cls .x (v % 64), 8 * (v / 64 / tiles) + pixelCoord cls .y (v % 64),
    by omega, by omega, ?_⟩
  have hsplit : ∀ q r, r < 8 → (8 * q + r) / 8 = q ∧ (8 * q + r) % 8 = r := fun q r hr => by omega
  obtain ⟨hdivx, hmodx⟩ := hsplit (v / 64 % tiles) _ hx
  obtain ⟨hdivy, hmody⟩ := hsplit (v / 64 / tiles) _ hy
  have hdm := Nat.mod_add_div' (v / 64) tiles
  rw [microSlot, hdivx, hdivy, ← pixelLow_mod_eight, hmodx, hmody, hlow, hdm]
  omega

/-- Settles O25: an address is a slot times the element's bytes, and slots and positions correspond one to one. -/
theorem microTileSlotsBijective : Obligations.MicroTileSlotsBijective := by
  unfold Obligations.MicroTileSlotsBijective
  intro bpp pitch h height v hb hbmod hpmod hhmod hv
  obtain ⟨e, rfl⟩ := Nat.dvd_of_mod_eq_zero hbmod
  obtain ⟨tiles, rfl⟩ := Nat.dvd_of_mod_eq_zero hpmod
  obtain ⟨rows, rfl⟩ := Nat.dvd_of_mod_eq_zero hhmod
  have he : 0 < e := by omega
  have hslot : ∀ x y, addrMicro x y (8 * e) (8 * tiles) height 2#5 = v * (8 * e / 8)
      ↔ microSlot (bppClass (8 * e)) tiles x y = v := fun x y => by
    rw [addrMicro_mode_two_eq_slot, Nat.mul_div_cancel_left _ (by decide), Nat.mul_left_inj he.ne']
  obtain ⟨x, y, hx, hy, hxy⟩ := exists_microSlot_eq (bppClass (8 * e)) hv
  refine ⟨(x, y), ⟨⟨hx, hy⟩, (hslot x y).mpr hxy⟩, ?_⟩
  rintro ⟨x', y'⟩ ⟨⟨hx', hy'⟩, haddr⟩
  obtain ⟨rfl, rfl⟩ := microSlot_inj hx hx' (hxy.trans ((hslot x' y').mp haddr).symm)
  rfl

end Sys2Proof.Machine
end

section
/-! ADDR.MACRO (spec/45_macrotile_address.md R175): each step with quotients and remainders, and from them one closed
form under the bank-swap width. -/

namespace Sys2Proof.Machine

/-! ## Step 4: the sample split -/

section
variable {bpp t e : Nat}

/-- The bytes of a micro tile, without a ceiling. -/
theorem cdiv8_microTileBits (bpp t : Nat) : cdiv8 (bpp * t * 64) = 8 * (bpp * t) := by
  rw [← cdiv8_mul_eight (8 * (bpp * t))]
  congr 1
  ring

theorem sampleSplit_of_le (h : bpp * t ≤ 256) :
    sampleSplit bpp t e = { numSamples := 1, sampleSlice := 0, elemBits := e } := by
  have hbytes : 8 * (bpp * t) ≤ 2048 := by omega
  simp [sampleSplit, cdiv8_microTileBits, hbytes]

/-- On the split branch no sample fits the split size, one split remains (D12), and a tile's offset is below it. -/
theorem sampleSplit_of_gt (h : 256 < bpp * t) (he : e < 64 * bpp) :
    sampleSplit bpp t e = { numSamples := 0, sampleSlice := 0, elemBits := e } := by
  have hbytes : ¬ 8 * (bpp * t) ≤ 2048 := by omega
  have hsamples : 2048 / (8 * (bpp * t)) = 0 := Nat.div_eq_of_lt (by omega)
  have ht : 0 < t := Nat.pos_of_ne_zero fun h0 => by simp [h0] at h
  have hinside : e < bpp * t * 64 := by
    have hle : bpp ≤ bpp * t := Nat.le_mul_of_pos_right bpp ht
    omega
  simp [sampleSplit, cdiv8_microTileBits, hbytes, hsamples, Nat.div_eq_of_lt hinside, Nat.mod_eq_of_lt hinside]

/-- Settles O28: the two branches of step 4. -/
theorem sampleSplitIsDegenerate : Obligations.SampleSplitIsDegenerate := by
  unfold Obligations.SampleSplitIsDegenerate
  exact fun _ _ _ => ⟨sampleSplit_of_le, sampleSplit_of_gt⟩

end

/-- The offset of an element lies in its tile, so the split leaves it and slice 0 on both branches. -/
theorem sampleSplit_pixelLow (bpp t : Nat) (cls : BppClass) (x y : Nat) :
    sampleSplit bpp t (bpp * pixelLow cls x y)
      = { numSamples := if bpp * t ≤ 256 then 1 else 0, sampleSlice := 0, elemBits := bpp * pixelLow cls x y } := by
  by_cases h : bpp * t ≤ 256
  · rw [if_pos h, sampleSplit_of_le h]
  · have hb : 0 < bpp := Nat.pos_of_ne_zero fun h0 => by simp [h0] at h
    have hin : bpp * pixelLow cls x y < 64 * bpp :=
      Nat.mul_comm 64 bpp ▸ Nat.mul_lt_mul_of_pos_left (pixelLow_lt cls x y) hb
    rw [if_neg h, sampleSplit_of_gt (Nat.lt_of_not_le h) hin]

/-! ## Steps 6 to 8: pipe and bank -/

section
variable (x y : Nat)

/-- The lowest bit of an exclusive or is that of the sum. -/
theorem xor_and_one (a b : Nat) : (a ^^^ b) &&& 1 = (a + b) % 2 := by
  rw [Nat.and_one_is_mod, Nat.xor_mod_two_eq]

theorem pipeBefore_eq : pipeBefore x y = (y / 8 + x / 8) % 2 := by
  simp only [pipeBefore, xor_and_one, Nat.shiftRight_eq_div_pow, Nat.reducePow]

theorem bankBit0_eq : bankBit0 x y = (y / 32 + x / 8) % 2 := by
  simp only [bankBit0, Config.numPipes, xor_and_one, Nat.shiftRight_eq_div_pow, Nat.reducePow, Nat.reduceMul]

theorem bankBit1_eq : bankBit1 x y = (y / 16 + x / 16) % 2 := by
  simp only [bankBit1, Config.numPipes, xor_and_one, Nat.shiftRight_eq_div_pow, Nat.reducePow, Nat.reduceMul]

theorem bankBefore_eq : bankBefore x y = (y / 32 + x / 8) % 2 + 2 * ((y / 16 + x / 16) % 2) := by
  have hlow : bankBit0 x y < 2 ^ 1 := bankBit0_eq x y ▸ Nat.mod_lt _ Nat.two_pos
  have htwo : 2 * bankBit1 x y = bankBit1 x y <<< 1 := by rw [Nat.shiftLeft_eq, Nat.mul_comm]
  rw [bankBefore, htwo, Nat.or_comm, shiftLeft_or_eq_mul_add hlow, bankBit0_eq, bankBit1_eq]
  omega

theorem pipeBefore_lt : pipeBefore x y < 2 := pipeBefore_eq x y ▸ Nat.mod_lt _ Nat.two_pos

theorem bankBefore_lt : bankBefore x y < 4 := by
  rw [bankBefore_eq]
  omega

end

/-- With slice 0 the rotation is by nothing: pipe and bank are exclusive ors with the swizzles (R187). -/
theorem rotateBankPipe_zero : ∀ pipe < 2, ∀ bank < 4, ∀ pipeSwizzle < 2, ∀ bankSwizzle < 4,
    rotateBankPipe pipe bank 0 pipeSwizzle bankSwizzle % 2 = pipe ^^^ pipeSwizzle
    ∧ rotateBankPipe pipe bank 0 pipeSwizzle bankSwizzle / 2 = bank ^^^ bankSwizzle := by
  decide

/-- Settles O29: pipe and bank before the swizzle are one and two bits. -/
theorem rotationReducesToXor : Obligations.RotationReducesToXor := by
  unfold Obligations.RotationReducesToXor
  intro x y pipeSwizzle bankSwizzle hp hb
  exact rotateBankPipe_zero _ (pipeBefore_lt x y) _ (bankBefore_lt x y) _ hp _ hb

/-- Every element is in sample slice 0, so no tile mode reaches the rotation. -/
theorem macroBankPipe_eq (x y bpp : Nat) (tm : BitVec 5) (pipeSwizzle bankSwizzle : Nat) :
    macroBankPipe x y bpp tm pipeSwizzle bankSwizzle
      = rotateBankPipe (pipeBefore x y) (bankBefore x y) 0 pipeSwizzle bankSwizzle := by
  rw [macroBankPipe, pixelIndex_zero, sampleSplit_pixelLow]

/-! ## Steps 9 to 11: the offset of the macrotile -/

section
variable (tm : BitVec 5)

theorem macroTilePitch_eq : macroTilePitch tm = 32 / aspect tm := by
  revert tm; decide

theorem macroTileHeight_eq : macroTileHeight tm = 16 * aspect tm := by
  revert tm; decide

theorem aspect_cases : aspect tm = 1 ∨ aspect tm = 2 ∨ aspect tm = 4 := by
  revert tm; decide

/-- A macrotile has 512 positions under every aspect ratio. -/
theorem macroTile_area : macroTileHeight tm * macroTilePitch tm = 512 := by
  revert tm; decide

end

/-- Slice 0 has no slice offset, so the height is not used (R189). -/
theorem sliceOffset_zero (height pitch t bpp numSamples : Nat) :
    sliceOffset height pitch t bpp numSamples 0 = 0 := by
  simp [sliceOffset]

/-- The macrotile's offset, already shifted for the pipe and bank bits: its number times the bytes of a micro tile. -/
theorem macroTileOffset_shiftRight (x y bpp pitch t n : Nat) (tm : BitVec 5) :
    macroTileOffset x y bpp pitch t n tm >>> Config.swizzleBits
      = (x / macroTilePitch tm + pitch / macroTilePitch tm * (y / macroTileHeight tm)) * (n * (8 * t * bpp)) := by
  have hbytes : cdiv8 (n * t * bpp * macroTileHeight tm * macroTilePitch tm) = 8 * (n * (8 * t * bpp)) := by
    rw [Nat.mul_assoc _ (macroTileHeight tm), macroTile_area, ← cdiv8_mul_eight (8 * (n * (8 * t * bpp)))]
    congr 1
    ring
  rw [macroTileOffset, hbytes, Nat.shiftRight_eq_div_pow, Nat.mul_left_comm]
  exact Nat.mul_div_cancel_left _ (by decide)

/-- The total offset of R199, without the macrotile's share on the sample-split branch (D12). -/
theorem macroTotalOffset_eq (x y bpp pitch height : Nat) (tm : BitVec 5) :
    macroTotalOffset x y bpp pitch height tm =
      if bpp * thickness tm ≤ 256 then
        (bpp * Expected.pixel x y 0 bpp 1 + 7) / 8
          + (x / (32 / aspect tm) + pitch / (32 / aspect tm) * (y / (16 * aspect tm))) * (8 * thickness tm * bpp)
      else (bpp * Expected.pixel x y 0 bpp 1 + 7) / 8 := by
  simp only [macroTotalOffset, pixelIndex_zero, sampleSplit_pixelLow, sliceOffset_zero, Nat.add_zero,
    macroTileOffset_shiftRight]
  simp only [pixelLow_eq_expected, macroTilePitch_eq, macroTileHeight_eq, cdiv8]
  split
  · rw [Nat.one_mul]
  · rw [Nat.zero_mul, Nat.mul_zero, Nat.add_zero]

/-! ## Steps 12 and 13: the bank swap and the address -/

theorem swapTerm_lt (x a w : Nat) : Expected.swapTerm x a w < 4 := by
  rw [Expected.swapTerm]
  split <;> decide

/-- The order of R194, entry by entry. -/
theorem swapTerm_eq_getD (x a w : Nat) :
    Expected.swapTerm x a w = swapOrder.getD ((32 / a * (x / (32 / a))) / w % 4) 0 := by
  have hlt : (32 / a * (x / (32 / a))) / w % 4 < 4 := Nat.mod_lt _ (by decide)
  rw [Expected.swapTerm]
  generalize (32 / a * (x / (32 / a))) / w % 4 = r at hlt
  interval_cases r <;> rfl

theorem swappedBank_eq (x : Nat) (tm : BitVec 5) (bank w : Nat) :
    swappedBank x tm bank w = bank ^^^ Expected.swapTerm x (aspect tm) w := by
  have hmask : ∀ n, n &&& (Config.numBanks - 1) = n % 4 := fun n => Nat.and_two_pow_sub_one_eq_mod n 2
  rw [swappedBank, macroTilePitch_eq, hmask, swapTerm_eq_getD]

/-- The parts of an address in the fields of R198. -/
theorem assembleAddress_eq_macroOffset {pipeSwizzle bankSwizzle swap : Nat} (hp : pipeSwizzle < 2) (hb : bankSwizzle < 4)
    (hs : swap < 4) (x y bpp pitch height : Nat) (tm : BitVec 5) :
    assembleAddress (macroBankPipe x y bpp tm pipeSwizzle bankSwizzle / 2 ^^^ swap)
        (macroBankPipe x y bpp tm pipeSwizzle bankSwizzle % 2) (macroTotalOffset x y bpp pitch height tm)
      = Expected.macroOffset x y bpp pitch (thickness tm) (aspect tm) pipeSwizzle bankSwizzle swap := by
  obtain ⟨hpipe, hbank⟩ := rotateBankPipe_zero _ (pipeBefore_lt x y) _ (bankBefore_lt x y) _ hp _ hb
  have hbankLt : bankBefore x y ^^^ bankSwizzle ^^^ swap < 4 :=
    Nat.xor_lt_two_pow (n := 2) (Nat.xor_lt_two_pow (bankBefore_lt x y) hb) hs
  have hpipeEq : pipeBefore x y ^^^ pipeSwizzle = (y / 8 + x / 8 + pipeSwizzle) % 2 := by
    have hlt : pipeBefore x y ^^^ pipeSwizzle < 2 := Nat.xor_lt_two_pow (n := 1) (pipeBefore_lt x y) hp
    rw [← Nat.mod_eq_of_lt hlt, Nat.xor_mod_two_eq, pipeBefore_eq]
    omega
  rw [macroBankPipe_eq, hpipe, hbank, hpipeEq, assembleAddress_eq_sum hbankLt (Nat.mod_lt _ Nat.two_pos),
    macroTotalOffset_eq, bankBefore_eq, Expected.macroOffset]
  simp only [Nat.add_assoc]

/-- The bank-swap term of a width under a tile mode: none where the mode is not eligible (R193). -/
def swapTermOf (tm : BitVec 5) (x w : Nat) : Nat :=
  if bankSwapEligible tm then Expected.swapTerm x (aspect tm) w else 0

/-- ADDR.MACRO in closed form on every mode: the bank-swap width decides how the calculation ends. -/
theorem addrMacro_eq_map {pipeSwizzle bankSwizzle : Nat} (hp : pipeSwizzle < 2) (hb : bankSwizzle < 4)
    (x y bpp pitch height : Nat) (tm : BitVec 5) :
    addrMacro x y bpp pitch height tm pipeSwizzle bankSwizzle
      = (bankSwapWidth tm bpp pitch).map fun w =>
          Expected.macroOffset x y bpp pitch (thickness tm) (aspect tm) pipeSwizzle bankSwizzle (swapTermOf tm x w) := by
  unfold addrMacro swapTermOf
  cases he : bankSwapEligible tm with
  | false =>
    have hplain := assembleAddress_eq_macroOffset hp hb (swap := 0) (by decide) x y bpp pitch height tm
    rw [Nat.xor_zero] at hplain
    simp [bankSwapWidth_ineligible he, hplain]
  | true =>
    simp [swappedBank_eq, assembleAddress_eq_macroOffset hp hb (swapTerm_lt _ _ _) x y bpp pitch height tm]

/-! ## ADDR.MACRO -/

theorem pipeSwizzleOf_eq (swizzle : Word) : pipeSwizzleOf swizzle = swizzle.toNat / 256 % 2 := by
  simp [pipeSwizzleOf, bitField, Nat.shiftRight_eq_div_pow]

theorem bankSwizzleOf_eq (swizzle : Word) : bankSwizzleOf swizzle = swizzle.toNat / 512 % 4 := by
  simp [bankSwizzleOf, bitField, Nat.shiftRight_eq_div_pow]

theorem pipeSwizzleOf_lt (swizzle : Word) : pipeSwizzleOf swizzle < 2 :=
  pipeSwizzleOf_eq swizzle ▸ Nat.mod_lt _ (by decide)

theorem bankSwizzleOf_lt (swizzle : Word) : bankSwizzleOf swizzle < 4 :=
  bankSwizzleOf_eq swizzle ▸ Nat.mod_lt _ (by decide)

/-- ADDR.MACRO has one outcome: the macrotiled address is delivered to `RES.VALUE`. -/
theorem exec_addrMacro (s : State) :
    exec .addrMacro s = deliver State.setValue (addrMacro s.oprX.toNat s.oprY.toNat s.oprBpp.toNat s.descPitch.toNat
      s.descHeight.toNat s.descTileMode (pipeSwizzleOf s.descSwizzle) (bankSwizzleOf s.descSwizzle)) s := rfl

/-- ADDR.MACRO where the bank-swap width has a value. -/
theorem exec_addrMacro_of_width {s : State} {w : Nat}
    (h : bankSwapWidth s.descTileMode s.oprBpp.toNat s.descPitch.toNat = .value w) :
    exec .addrMacro s = .next { s with
      resValue := Expected.macroOffset s.oprX.toNat s.oprY.toNat s.oprBpp.toNat s.descPitch.toNat
        (thickness s.descTileMode) (aspect s.descTileMode) (s.descSwizzle.toNat / 256 % 2)
        (s.descSwizzle.toNat / 512 % 4) (swapTermOf s.descTileMode s.oprX.toNat w) } := by
  rw [exec_addrMacro, addrMacro_eq_map (pipeSwizzleOf_lt _) (bankSwizzleOf_lt _), h, calc_map_value, deliver_value,
    State.setValue, pipeSwizzleOf_eq, bankSwizzleOf_eq]

/-- Settles O26: a mode that is not eligible has the width 0 and no swap term. -/
theorem addrMacroPlainResult : Obligations.AddrMacroPlainResult := by
  unfold Obligations.AddrMacroPlainResult
  intro s hmem
  have he := not_eligible_of_not_mem hmem
  rw [exec_addrMacro_of_width (bankSwapWidth_ineligible he _ _), swapTermOf, he, if_neg (by decide)]

/-- Settles O27: on an eligible mode the width that TM.BSWW delivers is the one that swaps the bank. -/
theorem addrMacroSwappedResult : Obligations.AddrMacroSwappedResult := by
  unfold Obligations.AddrMacroSwappedResult
  intro s hmem hbpp hpitch
  have he := bankSwapEligible_iff.mpr hmem
  have hw := bankSwapWidth_value he hbpp hpitch
  refine ⟨_, by rw [exec_tmBsww, hw, deliver_value, State.setValue], ?_⟩
  rw [exec_addrMacro_of_width hw, swapTermOf, if_pos he]

/-! ## What the address does not depend on -/

/-- The height is read in slice offsets only, of which there is none. -/
theorem addrMacro_height_irrel (x y bpp pitch height height' : Nat) (tm : BitVec 5) (pipeSwizzle bankSwizzle : Nat) :
    addrMacro x y bpp pitch height tm pipeSwizzle bankSwizzle
      = addrMacro x y bpp pitch height' tm pipeSwizzle bankSwizzle := by
  simp only [addrMacro, macroTotalOffset_eq]

/-- The bank-swap width reads a tile mode's eligibility, samples and aspect ratio. -/
theorem bankSwapWidth_congr {tm tm' : BitVec 5} (he : bankSwapEligible tm = bankSwapEligible tm')
    (hs : swapSamples tm = swapSamples tm') (ha : aspect tm = aspect tm') (bpp pitch : Nat) :
    bankSwapWidth tm bpp pitch = bankSwapWidth tm' bpp pitch := by
  simp only [bankSwapWidth, clampedSwapWidth_eq, he, hs, ha]

/-- The address reads a tile mode's thickness, aspect ratio and eligibility, and its samples where it is eligible. -/
theorem addrMacro_congr {tm tm' : BitVec 5} (ht : thickness tm = thickness tm') (ha : aspect tm = aspect tm')
    (he : bankSwapEligible tm = bankSwapEligible tm')
    (hs : bankSwapEligible tm = true → swapSamples tm = swapSamples tm')
    (x y bpp pitch height pipeSwizzle bankSwizzle : Nat) :
    addrMacro x y bpp pitch height tm pipeSwizzle bankSwizzle
      = addrMacro x y bpp pitch height tm' pipeSwizzle bankSwizzle := by
  simp only [addrMacro, macroTotalOffset_eq, macroBankPipe_eq, swappedBank_eq, ht, ha]
  cases helig : bankSwapEligible tm with
  | false =>
    rw [helig] at he
    simp [← he]
  | true => rw [← he, helig, bankSwapWidth_congr he (hs helig) ha]

/-- The codes of a group have the same attributes. -/
theorem groups_agree : ∀ group ∈ [([0, 1, 2, 4, 12, 18, 19, 20, 21, 22, 23, 24, 25, 26, 27, 28, 29, 30, 31] :
      List (BitVec 5)), [8, 14], [3, 7, 13], [11, 15], [16, 17]],
    ∀ tm ∈ group, ∀ tm' ∈ group, thickness tm = thickness tm' ∧ aspect tm = aspect tm'
      ∧ bankSwapEligible tm = bankSwapEligible tm'
      ∧ (bankSwapEligible tm = true → swapSamples tm = swapSamples tm') := by
  decide

/-- Settles O37: the attributes decide the address, and each group has one set of them. -/
theorem equalAttributesEqualAddresses : Obligations.EqualAttributesEqualAddresses := by
  unfold Obligations.EqualAttributesEqualAddresses
  intro x y bpp pitch height pipeSwizzle bankSwizzle group hgroup tm htm tm' htm'
  obtain ⟨ht, ha, he, hs⟩ := groups_agree group hgroup tm htm tm' htm'
  exact addrMacro_congr ht ha he hs x y bpp pitch height pipeSwizzle bankSwizzle

/-- A change of registers that a delivery does not touch passes through it. -/
theorem deliver_next_of_commutes {put put' : Nat → State → State} {c : Calc} {g : State → State} {s t : State}
    (hput : ∀ n k, put' n { g s with freeCount := k } = g (put n { s with freeCount := k }))
    (hcount : (g s).freeCount = s.freeCount) (h : deliver put c s = .next t) : deliver put' c (g s) = .next (g t) := by
  rcases deliver_next_iff.mp h with ⟨n, rfl, rfl⟩ | ⟨rfl, rfl⟩
  · have hvalue := hput n s.freeCount
    rw [← hcount] at hvalue
    exact congrArg Host.Outcome.next (hvalue.trans (by rw [hcount]))
  · rw [deliver_unspecified, hcount]
    exact congrArg Host.Outcome.next (hput _ _)

/-- Settles O24: neither address reads the height, and the result register is another one. -/
theorem heightChangesNoAddress : Obligations.HeightChangesNoAddress := by
  unfold Obligations.HeightChangesNoAddress
  intro s h i hi t hexec
  have hmem : i = .addrMicro ∨ i = .addrMacro := by simpa using hi
  rcases hmem with rfl | rfl
  · exact deliver_next_of_commutes (put := State.setValue) (c := .value _) (g := fun u => { u with descHeight := h })
      (fun _ _ => rfl) rfl hexec
  · rw [exec_addrMacro] at hexec ⊢
    rw [addrMacro_height_irrel _ _ _ _ _ h.toNat] at hexec
    exact deliver_next_of_commutes (g := fun u => { u with descHeight := h }) (fun _ _ => rfl) rfl hexec

end Sys2Proof.Machine
end

section
/-! Thin macrotiled surfaces (spec/45_macrotile_address.md R200): an element's address holds its slot, its pipe and its
bank, which together tell positions apart. -/

namespace Sys2Proof.Machine

/-! ## Addresses as slots -/

/-- A calculation's image has a value exactly where the calculation has one. -/
theorem calc_map_eq_value_iff {f : Nat → Nat} {c : Calc} {a : Nat} :
    c.map f = .value a ↔ ∃ n, c = .value n ∧ f n = a := by
  cases c <;> simp

/-- The slot of an element in the tiles of its surface, 64 to a macrotile's pipe and bank. -/
def thinSlot (bpp pitch a x y : Nat) : Nat :=
  pixelLow (bppClass bpp) x y + 64 * (x / (32 / a) + y / (16 * a) * (pitch / (32 / a)))

/-- The bank of an element after the swizzle and the swap. -/
def thinBank (x y bankSwizzle swap : Nat) : Nat :=
  ((y / 32 + x / 8) % 2 + 2 * ((y / 16 + x / 16) % 2)) ^^^ bankSwizzle ^^^ swap

/-- The address of a thin element of `e` bytes, `e` at most 32: its slot times `e`, with pipe and bank put in above the
low 8 bits. -/
theorem macroOffset_thin {e : Nat} (he : e ≤ 32) (x y pitch a pipeSwizzle bankSwizzle swap : Nat) :
    Expected.macroOffset x y (8 * e) pitch 1 a pipeSwizzle bankSwizzle swap
      = e * thinSlot (8 * e) pitch a x y / 256 * 2048 + thinBank x y bankSwizzle swap * 512
        + (y / 8 + x / 8 + pipeSwizzle) % 2 * 256 + e * thinSlot (8 * e) pitch a x y % 256 := by
  have hbytes : (8 * e * pixelLow (bppClass (8 * e)) x y + 7) / 8 = e * pixelLow (bppClass (8 * e)) x y := by
    rw [Nat.mul_assoc]
    exact cdiv8_mul_eight _
  have htotal : e * pixelLow (bppClass (8 * e)) x y
      + (x / (32 / a) + pitch / (32 / a) * (y / (16 * a))) * (8 * 1 * (8 * e)) = e * thinSlot (8 * e) pitch a x y := by
    rw [thinSlot]
    ring
  simp only [Expected.macroOffset, ← pixelLow_eq_expected, hbytes, htotal]
  rw [if_pos (by omega)]
  rfl

/-- Addresses of elements of 1, 2, 4, 8 or 16 bytes that differ in slot, bank or pipe are an element apart: a slot's
bytes do not cross a group of 256. -/
theorem thin_ranges_disjoint {e u bank pipe u' bank' pipe' : Nat} (he : e ∈ [1, 2, 4, 8, 16]) (hbank : bank < 4)
    (hbank' : bank' < 4) (hpipe : pipe < 2) (hpipe' : pipe' < 2) (hne : ¬ (u = u' ∧ bank = bank' ∧ pipe = pipe')) :
    e * u / 256 * 2048 + bank * 512 + pipe * 256 + e * u % 256 + e
        ≤ e * u' / 256 * 2048 + bank' * 512 + pipe' * 256 + e * u' % 256
      ∨ e * u' / 256 * 2048 + bank' * 512 + pipe' * 256 + e * u' % 256 + e
        ≤ e * u / 256 * 2048 + bank * 512 + pipe * 256 + e * u % 256 := by
  simp only [List.mem_cons, List.not_mem_nil, or_false] at he
  rcases he with rfl | rfl | rfl | rfl | rfl <;> omega

/-! ## Positions from slot, pipe and bank -/

/-- Numbers with the same quotient by 8 and the same remainder are the same. -/
theorem eq_of_div_eight {v v' : Nat} (hmod : v % 8 = v' % 8) (hdiv : v / 8 = v' / 8) : v = v' := by omega

/-- A coarser quotient follows from a finer one. -/
theorem div_mul_congr {v v' a : Nat} (b : Nat) (h : v / a = v' / a) : v / (a * b) = v' / (a * b) := by
  rw [← Nat.div_div_eq_div_mul, ← Nat.div_div_eq_div_mul, h]

/-- A quotient by 8 from a coarser one and the bits between. -/
theorem div_eight_of_bits {v v' : Nat} (h8 : v / 8 % 2 = v' / 8 % 2) (h16 : v / 16 = v' / 16) : v / 8 = v' / 8 := by
  omega

theorem div_sixteen_of_bits {v v' : Nat} (h16 : v / 16 % 2 = v' / 16 % 2) (h32 : v / 32 = v' / 32) :
    v / 16 = v' / 16 := by omega

theorem div_thirtytwo_of_bits {v v' : Nat} (h32 : v / 32 % 2 = v' / 32 % 2) (h64 : v / 64 = v' / 64) :
    v / 32 = v' / 32 := by omega

/-- A macrotile's row and column and a micro tile's position leave three bits of the coordinates open; bank and pipe fix
them, for each aspect ratio in an order of its own. -/
theorem position_eq_of_parts {a x y x' y' : Nat} (ha : a = 1 ∨ a = 2 ∨ a = 4) (hx : x % 8 = x' % 8)
    (hy : y % 8 = y' % 8) (hcol : x / (32 / a) = x' / (32 / a)) (hrow : y / (16 * a) = y' / (16 * a))
    (hpipe : y / 8 + x / 8 ≡ y' / 8 + x' / 8 [MOD 2]) (hbank0 : y / 32 + x / 8 ≡ y' / 32 + x' / 8 [MOD 2])
    (hbank1 : y / 16 + x / 16 ≡ y' / 16 + x' / 16 [MOD 2]) : x = x' ∧ y = y' := by
  have hmod : ∀ {u u' : Nat}, u = u' → u ≡ u' [MOD 2] := fun h => h ▸ rfl
  suffices h : x / 8 = x' / 8 ∧ y / 8 = y' / 8 from ⟨eq_of_div_eight hx h.1, eq_of_div_eight hy h.2⟩
  rcases ha with rfl | rfl | rfl
  · have hy16 : y / 16 = y' / 16 := hrow
    have hy32 : y / 32 = y' / 32 := div_mul_congr (a := 16) 2 hy16
    have hx8 := (hmod hy32).add_left_cancel hbank0
    have hx16 := (hmod hy16).add_left_cancel hbank1
    exact ⟨div_eight_of_bits hx8 (div_sixteen_of_bits hx16 hcol), div_eight_of_bits (hx8.add_right_cancel hpipe) hy16⟩
  · have hx16 : x / 16 = x' / 16 := hcol
    have hx8 := (hmod hrow).add_left_cancel hbank0
    have hy16 := (hmod hx16).add_right_cancel hbank1
    exact ⟨div_eight_of_bits hx8 hx16,
      div_eight_of_bits (hx8.add_right_cancel hpipe) (div_sixteen_of_bits hy16 hrow)⟩
  · have hx8 : x / 8 = x' / 8 := hcol
    have hx16 : x / 16 = x' / 16 := div_mul_congr (a := 8) 2 hx8
    have hy32 := (hmod hx8).add_right_cancel hbank0
    have hy16 := (hmod hx16).add_right_cancel hbank1
    have hy8 := (hmod hx8).add_right_cancel hpipe
    exact ⟨hx8, div_eight_of_bits hy8 (div_sixteen_of_bits hy16 (div_thirtytwo_of_bits hy32 hrow))⟩

/-- A slot holds the position in the micro tile and the macrotile's row and column. -/
theorem thinSlot_inj {bpp pitch a x y x' y' : Nat} (hpitch : pitch % (32 / a) = 0)
    (hx : x < pitch) (hx' : x' < pitch) (h : thinSlot bpp pitch a x y = thinSlot bpp pitch a x' y') :
    (x % 8 = x' % 8 ∧ y % 8 = y' % 8) ∧ x / (32 / a) = x' / (32 / a) ∧ y / (16 * a) = y' / (16 * a) := by
  have hlow := pixelLow_lt (bppClass bpp) x y
  have hlow' := pixelLow_lt (bppClass bpp) x' y'
  rw [thinSlot, thinSlot] at h
  have hcol : ∀ v, v < pitch → v / (32 / a) < pitch / (32 / a) := fun v hv =>
    Nat.div_lt_div_of_lt_of_dvd (Nat.dvd_of_mod_eq_zero hpitch) hv
  exact ⟨pixelLow_inj (cls := bppClass bpp) (by omega), row_major_inj (hcol x hx) (hcol x' hx') (by omega)⟩

/-- The swap term reads the macrotile's column only. -/
theorem swapTermOf_congr {tm : BitVec 5} {x x' : Nat} (h : x / (32 / aspect tm) = x' / (32 / aspect tm)) (w : Nat) :
    swapTermOf tm x w = swapTermOf tm x' w := by
  simp only [swapTermOf, Expected.swapTerm, h]

theorem swapTermOf_lt (tm : BitVec 5) (x w : Nat) : swapTermOf tm x w < 4 := by
  rw [swapTermOf]
  split
  · exact swapTerm_lt _ _ _
  · decide

theorem thinBank_lt {x y bankSwizzle swap : Nat} (hb : bankSwizzle < 4) (hs : swap < 4) :
    thinBank x y bankSwizzle swap < 4 := by
  have hbefore : (y / 32 + x / 8) % 2 + 2 * ((y / 16 + x / 16) % 2) < 2 ^ 2 := by omega
  exact Nat.xor_lt_two_pow (n := 2) (Nat.xor_lt_two_pow hbefore hb) hs

/-- Slot, bank and pipe tell the positions of a thin surface apart: the slot fixes the swap term, so the banks before the
swap agree too. -/
theorem thin_position_inj {tm : BitVec 5} {bpp pitch bankSwizzle w pipeSwizzle x y x' y' : Nat}
    (hpitch : pitch % (32 / aspect tm) = 0) (hx : x < pitch) (hx' : x' < pitch)
    (hslot : thinSlot bpp pitch (aspect tm) x y = thinSlot bpp pitch (aspect tm) x' y')
    (hbank : thinBank x y bankSwizzle (swapTermOf tm x w) = thinBank x' y' bankSwizzle (swapTermOf tm x' w))
    (hpipe : (y / 8 + x / 8 + pipeSwizzle) % 2 = (y' / 8 + x' / 8 + pipeSwizzle) % 2) : x = x' ∧ y = y' := by
  have ha := aspect_cases tm
  obtain ⟨⟨hmodx, hmody⟩, hcol, hrow⟩ := thinSlot_inj hpitch hx hx' hslot
  rw [thinBank, thinBank, swapTermOf_congr hcol, Nat.xor_left_inj, Nat.xor_left_inj] at hbank
  exact position_eq_of_parts ha hmodx hmody hcol hrow (Nat.ModEq.add_right_cancel' _ hpipe)
    (show _ % 2 = _ % 2 by omega) (show _ % 2 = _ % 2 by omega)

/-- The bpp of R200 are whole bytes, and the bytes divide a group. -/
theorem elementBytes_spec :
    ∀ bpp ∈ [8, 16, 32, 64, 128], bpp = 8 * (bpp / 8) ∧ bpp / 8 ∈ [1, 2, 4, 8, 16] ∧ bpp / 8 ≤ 32 := by
  decide

/-- Settles O31: two addresses that are less than an element apart agree in slot, bank and pipe, and so in the
position. -/
theorem thinMacroRangesDisjoint : Obligations.ThinMacroRangesDisjoint := by
  unfold Obligations.ThinMacroRangesDisjoint
  intro tm bpp pitch height height' pipeSwizzle bankSwizzle x y x' y' a a' hthick hbpp _ hpitch hp hb hx hx' hne haddr
    haddr'
  obtain ⟨hbytes, he, hle⟩ := elementBytes_spec bpp hbpp
  obtain ⟨e, hedef⟩ : ∃ e, bpp / 8 = e := ⟨_, rfl⟩
  rw [hedef] at hbytes he hle
  subst hbytes
  have hlt : ∀ v, v % 2 < 2 := fun v => Nat.mod_lt v Nat.two_pos
  rw [addrMacro_eq_map hp hb, calc_map_eq_value_iff] at haddr haddr'
  obtain ⟨w, hw, rfl⟩ := haddr
  obtain ⟨w', hw', rfl⟩ := haddr'
  obtain rfl : w = w' := by
    rw [hw] at hw'
    exact Calc.value.inj hw'
  rw [hthick, macroOffset_thin hle, macroOffset_thin hle, Nat.mul_div_cancel_left _ (by decide)]
  refine thin_ranges_disjoint he (thinBank_lt hb (swapTermOf_lt _ _ _)) (thinBank_lt hb (swapTermOf_lt _ _ _))
    (hlt _) (hlt _) fun ⟨hslot, hbank, hpipe⟩ => hne ?_
  rw [macroTilePitch_eq] at hpitch
  obtain ⟨rfl, rfl⟩ := thin_position_inj hpitch hx hx' hslot hbank hpipe
  rfl

end Sys2Proof.Machine
end

section
/-! MAP.ELEM and the tile-mode rows (spec/46_surface_mapper.md R210 to R219): the wires of a request, the dispatch on the
tile-mode code, and the delivery of the mapping. -/

namespace Sys2Proof.Machine

/-! ## The wires -/

section
variable (s : State) (tm : BitVec 5)

theorem reqBpp_eq : Expected.reqBpp s = formatBpp s.fmtRom s.descFormat :=
  (formatBpp_eq_read s.fmtRom s.descFormat).symm

theorem reqBpp_lt : Expected.reqBpp s < 256 := reqBpp_eq s ▸ formatBpp_lt s.fmtRom s.descFormat

@[simp] theorem planUnder_tileMode : (planUnder tm s).tileMode = tm := rfl

@[simp] theorem planUnder_bpp : (planUnder tm s).bpp = Expected.reqBpp s := (reqBpp_eq s).symm

@[simp] theorem planUnder_pitch : (planUnder tm s).pitch = s.descPitch.toNat := rfl

@[simp] theorem planUnder_elementSize : (planUnder tm s).elementSize = Expected.reqBpp s / 8 :=
  congrArg (· / 8) (reqBpp_eq s).symm

@[simp] theorem planUnder_effWidth : (planUnder tm s).effWidth = Expected.reqWidth s :=
  if_congr isBlockCompressed_iff rfl rfl

@[simp] theorem planUnder_effHeight : (planUnder tm s).effHeight = Expected.reqHeight s :=
  if_congr isBlockCompressed_iff rfl rfl

@[simp] theorem planUnder_pipeSwizzle : (planUnder tm s).pipeSwizzle = pipeSwizzleOf s.descSwizzle := rfl

@[simp] theorem planUnder_bankSwizzle : (planUnder tm s).bankSwizzle = bankSwizzleOf s.descSwizzle := rfl

theorem linearOffset_planUnder (x y : Nat) : linearOffset (planUnder tm s) x y = Expected.reqLinear s x y := by
  simp [linearOffset, Expected.reqLinear]

/-- An element mapping has one outcome: the tiled offset is delivered to `RES.TILED`, beside the linear offset and the
element's size. -/
theorem mapElement_eq :
    mapElement tm s = deliver
      (State.setMapped (Expected.reqLinear s s.oprX.toNat s.oprY.toNat) (Expected.reqBpp s / 8))
      (tiledOffset (planUnder tm s) s.oprX.toNat s.oprY.toNat) s := by
  rw [mapElement, linearOffset_planUnder, planUnder_elementSize]

end

/-- An element mapping whose tiled offset has a value. -/
theorem mapElement_of_value {s : State} {tm : BitVec 5} {n : Nat}
    (h : tiledOffset (planUnder tm s) s.oprX.toNat s.oprY.toNat = .value n) :
    mapElement tm s = .next (Expected.mapped s n) := by
  rw [mapElement_eq, h, deliver_value, State.setMapped, Expected.mapped]

/-! ## The dispatch -/

section
variable {p : Plan} (x y : Nat)

theorem tiledOffset_linear (h : p.tileMode.toNat < 2) :
    tiledOffset p x y = .value (addrLinear x y p.bpp p.pitch) := by
  rw [tiledOffset, if_pos (mem_linearCodes_iff.mpr h)]

theorem tiledOffset_micro (h : ¬ p.tileMode.toNat < 2) (h' : p.tileMode.toNat < 4) :
    tiledOffset p x y = .value (addrMicro x y p.bpp p.pitch p.effHeight p.tileMode) := by
  rw [tiledOffset, if_neg (mt mem_linearCodes_iff.mp h), if_pos (mem_microCodes_iff.mpr ⟨Nat.not_lt.mp h, h'⟩)]

theorem tiledOffset_macro (h : ¬ p.tileMode.toNat < 4) :
    tiledOffset p x y = addrMacro x y p.bpp p.pitch p.effHeight p.tileMode p.pipeSwizzle p.bankSwizzle := by
  have hlinear : ¬ p.tileMode.toNat < 2 := by omega
  rw [tiledOffset, if_neg (mt mem_linearCodes_iff.mp hlinear), if_neg fun hm => h (mem_microCodes_iff.mp hm).2]

end

/-- A macrotiled mapping where the bank-swap width has a value. -/
theorem mapElement_macro_of_width {s : State} {tm : BitVec 5} {w : Nat} (htm : ¬ tm.toNat < 4)
    (hw : bankSwapWidth tm (Expected.reqBpp s) s.descPitch.toNat = .value w) :
    mapElement tm s = .next (Expected.mapped s (Expected.reqMacro s tm (swapTermOf tm s.oprX.toNat w))) := by
  refine mapElement_of_value ?_
  rw [tiledOffset_macro _ _ htm]
  simp only [planUnder_tileMode, planUnder_bpp, planUnder_pitch, planUnder_pipeSwizzle, planUnder_bankSwizzle]
  rw [addrMacro_eq_map (pipeSwizzleOf_lt _) (bankSwizzleOf_lt _), hw, calc_map_value, pipeSwizzleOf_eq,
    bankSwizzleOf_eq, Expected.reqMacro]

/-! ## The rows -/

/-- Settles O33: codes 0 and 1 are linear. -/
theorem linearRowsResult : Obligations.LinearRowsResult := by
  unfold Obligations.LinearRowsResult
  intro s i hi
  have hrow : ∀ tm : BitVec 5, tm.toNat < 2 → mapElement tm s = .next (Expected.mapped s
      (Expected.linear s.oprX.toNat s.oprY.toNat (Expected.reqBpp s) s.descPitch.toNat)) := fun tm htm =>
    mapElement_of_value ((tiledOffset_linear _ _ htm).trans (by simp [addrLinear, Expected.linear]))
  have hmem : i = .tm0 ∨ i = .tm1 := by simpa using hi
  rcases hmem with rfl | rfl
  · exact hrow 0#5 (by decide)
  · exact hrow 1#5 (by decide)

/-- Settles O34: codes 2 and 3 are micro-tiled, with the calculator's own thickness. -/
theorem microRowsResult : Obligations.MicroRowsResult := by
  unfold Obligations.MicroRowsResult
  intro s
  have hrow : ∀ tm : BitVec 5, ¬ tm.toNat < 2 → tm.toNat < 4 → mapElement tm s = .next (Expected.mapped s
      (Expected.micro s.oprX.toNat s.oprY.toNat (Expected.reqBpp s) s.descPitch.toNat (microThickness tm))) :=
    fun tm htm htm' =>
      mapElement_of_value ((tiledOffset_micro _ _ htm htm').trans (by simp [addrMicro_eq_expected]))
  exact ⟨hrow 2#5 (by decide) (by decide), hrow 3#5 (by decide) (by decide)⟩

/-- The rows without a bank swap stand at their codes. -/
theorem plainMacroRows_spec : ∀ r ∈ [(Instr.tm4, (4 : BitVec 5)), (.tm5, 5), (.tm6, 6), (.tm7, 7), (.tm12, 12),
      (.tm13, 13), (.tm16, 16), (.tm17, 17), (.tmr18, 18), (.tmr19, 19), (.tmr20, 20), (.tmr21, 21), (.tmr22, 22),
      (.tmr23, 23), (.tmr24, 24), (.tmr25, 25), (.tmr26, 26), (.tmr27, 27), (.tmr28, 28), (.tmr29, 29), (.tmr30, 30),
      (.tmr31, 31)],
    r.1 = decodeTm r.2 ∧ ¬ r.2.toNat < 4 ∧ bankSwapEligible r.2 = false := by
  decide

/-- Settles O35: the width of a mode that is not eligible is 0, and it swaps no bank. -/
theorem plainMacroRowsResult : Obligations.PlainMacroRowsResult := by
  unfold Obligations.PlainMacroRowsResult
  intro s r hr
  obtain ⟨hrow, hmacro, he⟩ := plainMacroRows_spec r hr
  rw [hrow, exec_decodeTm, mapElement_macro_of_width hmacro (bankSwapWidth_ineligible he _ _), swapTermOf, he,
    if_neg (by decide)]

/-- The bank-swapped rows stand at their codes. -/
theorem swappedMacroRows_spec :
    ∀ r ∈ [(Instr.tm8, (8 : BitVec 5)), (.tm9, 9), (.tm10, 10), (.tm11, 11), (.tm14, 14), (.tm15, 15)],
      r.1 = decodeTm r.2 ∧ ¬ r.2.toNat < 4 ∧ bankSwapEligible r.2 = true := by
  decide

/-- The format's bits per element fit `OPR.BPP`. -/
theorem toNat_ofNat_reqBpp (s : State) : (BitVec.ofNat 8 (Expected.reqBpp s)).toNat = Expected.reqBpp s := by
  rw [BitVec.toNat_ofNat, Nat.mod_eq_of_lt (reqBpp_lt s)]

/-- Settles O36: the row's width is the one that TM.BSWW delivers for its code and the format's bpp. -/
theorem swappedMacroRowsResult : Obligations.SwappedMacroRowsResult := by
  unfold Obligations.SwappedMacroRowsResult
  intro s hbpp hpitch r hr
  obtain ⟨hrow, hmacro, he⟩ := swappedMacroRows_spec r hr
  obtain ⟨w, hw⟩ : ∃ w, bankSwapWidth r.2 (Expected.reqBpp s) s.descPitch.toNat = .value w :=
    ⟨_, bankSwapWidth_value he hbpp hpitch⟩
  refine ⟨w, ?_, ?_⟩
  · rw [exec_tmBsww]
    simp only [toNat_ofNat_reqBpp]
    rw [hw, deliver_value, State.setValue]
  · rw [hrow, exec_decodeTm, mapElement_macro_of_width hmacro hw, swapTermOf, if_pos he]

/-! ## MAP.ELEM -/

/-- MAP.ELEM maps under the descriptor's own code. -/
theorem exec_mapElem (s : State) : exec .mapElem s = mapElement s.descTileMode s := rfl

/-- Settles O3: a row is MAP.ELEM's effect under its code, and the code decodes to the row. -/
theorem mapElemRunsTheTileModeRow : Obligations.MapElemRunsTheTileModeRow := by
  unfold Obligations.MapElemRunsTheTileModeRow
  intro s i hdec
  rw [← decode_tm_toNat_iff.mp hdec, exec_decodeTm, exec_mapElem]

/-- Settles O18: with bpp 0 the width is unspecified, and what is computed from it is. -/
theorem unspecifiedWidthIsAFreeValue : Obligations.UnspecifiedWidthIsAFreeValue := by
  unfold Obligations.UnspecifiedWidthIsAFreeValue
  intro s hmem
  have he := bankSwapEligible_iff.mpr hmem
  refine ⟨fun hbpp i hi => ?unit, fun hbpp => ?mapping⟩
  case unit =>
    have hzero : s.oprBpp.toNat = 0 := by rw [hbpp]; rfl
    have hop : i = .tmBsww ∨ i = .addrMacro := by simpa using hi
    rcases hop with rfl | rfl
    · rw [exec_tmBsww, hzero, bankSwapWidth_zero_bpp he, deliver_unspecified, State.setValue]
    · rw [exec_addrMacro, hzero, addrMacro_unspecified_iff.mpr ⟨he, rfl⟩, deliver_unspecified, State.setValue]
  case mapping =>
    have hfree : tiledOffset (planUnder s.descTileMode s) s.oprX.toNat s.oprY.toNat = .unspecified :=
      tiledOffset_unspecified_iff.mpr ⟨he, (planUnder_bpp s _).trans hbpp⟩
    rw [exec_mapElem, mapElement_eq, hfree, deliver_unspecified, State.setMapped, Expected.reqLinear, hbpp,
      Nat.zero_div, Nat.mul_zero]

/-- What a calculation delivers to `RES.VALUE` on one state, it delivers to the mapping registers on another with the
same count of values drawn. -/
theorem deliver_setMapped_of_setValue {c : Calc} {s u t : State} {l e : Nat} (h : deliver State.setValue c u = .next t)
    (hcount : u.freeCount = s.freeCount) :
    deliver (State.setMapped l e) c s
      = .next { State.setMapped l e t.resValue s with freeCount := t.freeCount } := by
  rcases deliver_next_iff.mp h with ⟨n, rfl, rfl⟩ | ⟨rfl, rfl⟩
  · rw [deliver_value, setValue_resValue, setValue_freeCount, hcount]
    rfl
  · rw [deliver_unspecified, setValue_resValue, setValue_freeCount, hcount]
    rfl

/-- The calculator's operation under the format's bpp and the scaled height computes the tiled offset of the request. -/
theorem exec_calculator (s : State) :
    exec (if s.descTileMode.toNat < 2 then Instr.addrLin else if s.descTileMode.toNat < 4 then .addrMicro else .addrMacro)
        { s with oprBpp := BitVec.ofNat 8 (Expected.reqBpp s), descHeight := BitVec.ofNat 32 (Expected.reqHeight s) }
      = deliver State.setValue (tiledOffset (planUnder s.descTileMode s) s.oprX.toNat s.oprY.toNat)
        { s with oprBpp := BitVec.ofNat 8 (Expected.reqBpp s), descHeight := BitVec.ofNat 32 (Expected.reqHeight s) } := by
  by_cases hlinear : s.descTileMode.toNat < 2
  · rw [if_pos hlinear, tiledOffset_linear _ _ hlinear, deliver_value, exec_addrLin]
    simp only [toNat_ofNat_reqBpp, planUnder_bpp, planUnder_pitch]
  · by_cases hmicro : s.descTileMode.toNat < 4
    · rw [if_neg hlinear, if_pos hmicro, tiledOffset_micro _ _ hlinear hmicro, deliver_value, exec_addrMicro]
      simp only [toNat_ofNat_reqBpp, planUnder_bpp, planUnder_pitch, addrMicro_eq_expected, planUnder_tileMode]
    · rw [if_neg hlinear, if_neg hmicro, tiledOffset_macro _ _ hmicro, exec_addrMacro]
      simp only [toNat_ofNat_reqBpp, planUnder_bpp, planUnder_pitch, planUnder_tileMode, planUnder_pipeSwizzle,
        planUnder_bankSwizzle]
      rw [addrMacro_height_irrel]

/-- Settles O32: the calculator's operation and MAP.ELEM deliver the same calculation. -/
theorem mapElemDispatchesToTheCalculator : Obligations.MapElemDispatchesToTheCalculator := by
  unfold Obligations.MapElemDispatchesToTheCalculator
  intro s t h
  rw [exec_calculator] at h
  rw [exec_mapElem, mapElement_eq]
  exact deliver_setMapped_of_setValue h rfl

/-! ## The swizzle -/

section
variable {s t : State} {v : Word}

/-- Only bits 8 to 10 reach the two swizzle fields (R84). -/
theorem swizzle_fields_congr (h : v.toNat / 256 % 8 = s.descSwizzle.toNat / 256 % 8) :
    pipeSwizzleOf v = pipeSwizzleOf s.descSwizzle ∧ bankSwizzleOf v = bankSwizzleOf s.descSwizzle := by
  simp only [pipeSwizzleOf_eq, bankSwizzleOf_eq]
  omega

variable (hfields : pipeSwizzleOf v = pipeSwizzleOf s.descSwizzle ∧ bankSwizzleOf v = bankSwizzleOf s.descSwizzle)
include hfields

/-- A meaning reads the swizzle through its two fields. -/
theorem meaningOf_swizzle (i : Instr) : meaningOf i { s with descSwizzle := v } = meaningOf i s := by
  cases i
  case addrMacro => simp only [meaningOf, hfields]
  all_goals rfl

/-- So do the wires of a request. -/
theorem planUnder_swizzle (tm : BitVec 5) : planUnder tm { s with descSwizzle := v } = planUnder tm s := by
  simp only [planUnder, hfields]

/-- The run of a meaning leaves the swizzle register as it is, whatever it holds beside the fields. -/
theorem run_swizzle {m : Meaning} (h : m.run s = .next t) :
    m.run { s with descSwizzle := v } = .next { t with descSwizzle := v } := by
  cases m with
  | unit c => exact deliver_next_of_commutes (g := fun u => { u with descSwizzle := v }) (fun _ _ => rfl) rfl h
  | mapping tm =>
    have hrun : (Meaning.mapping tm).run { s with descSwizzle := v } = _ := mapElement_eq _ tm
    rw [planUnder_swizzle hfields] at hrun
    rw [hrun]
    rw [Meaning.run, mapElement_eq] at h
    exact deliver_next_of_commutes (g := fun u => { u with descSwizzle := v }) (fun _ _ => rfl) rfl h
  | walk dir =>
    obtain ⟨c, d, hcopy, rfl⟩ := transform_next_iff.mp h
    refine transform_next_iff.mpr ⟨c, d, ?_, rfl⟩
    have hplan : planOf { s with descSwizzle := v } = planOf s := planUnder_swizzle hfields s.descTileMode
    rw [hplan]
    exact hcopy
  | reserved op => cases h

end

/-- Settles O38: a meaning reads bits 8 to 10 of the swizzle and writes none. -/
theorem otherSwizzleBitsAreIgnored : Obligations.OtherSwizzleBitsAreIgnored := by
  unfold Obligations.OtherSwizzleBitsAreIgnored
  intro s t v i hbits h
  have hfields := swizzle_fields_congr hbits
  rw [exec_eq_run] at h ⊢
  rw [meaningOf_swizzle hfields]
  exact run_swizzle hfields h

end Sys2Proof.Machine
end

section
/-! The transforms (spec/46_surface_mapper.md R221 to R229, spec/20_memory.md R54, R60 to R62): the walk as a list of
element copies, what its bytes are, and what follows where the copies do not overlap. -/

namespace Sys2Proof.Machine

/-! ## One element copy, byte by byte -/

/-- Byte `i` of the copy from `move.1` to `move.2` is written to index `a`: both its indices are below `LEN` (R54). -/
def WritesAt (len size : Nat) (move : Nat × Nat) (i a : Nat) : Prop :=
  i < size ∧ move.1 + i < len ∧ move.2 + i = a ∧ a < len

section
variable {len size : Nat} {src dst : Memory} {move : Nat × Nat} {a : Nat}

theorem elemCopy_read_of_writesAt {i : Nat} (hdst : dst.wf = true) (h : WritesAt len size move i a) :
    (elemCopy len src move.1 move.2 size dst).read a = src.read (move.1 + i) := by
  obtain ⟨hi, hsrc, rfl, ha⟩ := h
  rw [elemCopy_read size hdst, if_pos (by omega), Nat.add_sub_cancel_left]

theorem elemCopy_read_of_not_writesAt (hdst : dst.wf = true) (h : ∀ i, ¬ WritesAt len size move i a) :
    (elemCopy len src move.1 move.2 size dst).read a = dst.read a := by
  rw [elemCopy_read size hdst, if_neg]
  rintro ⟨hle, hlt, ha, hsrc⟩
  exact h (a - move.2) ⟨by omega, hsrc, by omega, ha⟩

end

/-! ## A list of element copies -/

/-- Element copies one after the other, each move a source and a destination offset. -/
def copyMoves (len : Nat) (src : Memory) (size : Nat) (moves : List (Nat × Nat)) (dst : Memory) : Memory :=
  moves.foldl (fun d m => elemCopy len src m.1 m.2 size d) dst

section
variable {len size : Nat} {src : Memory}

theorem copyMoves_wf (moves : List (Nat × Nat)) {dst : Memory} (h : dst.wf = true) :
    (copyMoves len src size moves dst).wf = true := by
  induction moves generalizing dst with
  | nil => exact h
  | cons m rest ih => exact ih (elemCopy_wf size h)

theorem copyMoves_snoc (moves : List (Nat × Nat)) (m : Nat × Nat) (dst : Memory) :
    copyMoves len src size (moves ++ [m]) dst = elemCopy len src m.1 m.2 size (copyMoves len src size moves dst) := by
  rw [copyMoves, List.foldl_append]
  rfl

/-- An index that no move writes reads as before. -/
theorem copyMoves_read_of_not_writesAt {moves : List (Nat × Nat)} {a : Nat} {dst : Memory} (hdst : dst.wf = true)
    (h : ∀ m ∈ moves, ∀ i, ¬ WritesAt len size m i a) : (copyMoves len src size moves dst).read a = dst.read a := by
  induction moves generalizing dst with
  | nil => rfl
  | cons m rest ih =>
    exact (ih (elemCopy_wf size hdst) fun m' hm' => h m' (List.mem_cons_of_mem _ hm')).trans
      (elemCopy_read_of_not_writesAt hdst (h m List.mem_cons_self))

/-- Where every write to an index is of the same byte, the index reads it once it is written, in any order of the
moves. -/
theorem copyMoves_read_of_agree {moves : List (Nat × Nat)} {a : Nat} {b : Byte} {dst : Memory} (hdst : dst.wf = true)
    (hagree : ∀ m ∈ moves, ∀ i, WritesAt len size m i a → src.read (m.1 + i) = b)
    (h : (∃ m ∈ moves, ∃ i, WritesAt len size m i a) ∨ dst.read a = b) :
    (copyMoves len src size moves dst).read a = b := by
  induction moves generalizing dst with
  | nil => exact h.resolve_left fun ⟨_, hm, _⟩ => by cases hm
  | cons m rest ih =>
    refine ih (elemCopy_wf size hdst) (fun m' hm' => hagree m' (List.mem_cons_of_mem _ hm')) ?_
    by_cases hwrites : ∃ i, WritesAt len size m i a
    · obtain ⟨i, hi⟩ := hwrites
      exact .inr ((elemCopy_read_of_writesAt hdst hi).trans (hagree m List.mem_cons_self i hi))
    · rw [elemCopy_read_of_not_writesAt hdst (not_exists.mp hwrites)]
      refine h.imp_left fun ⟨m', hm', hex⟩ => ?_
      rcases List.mem_cons.mp hm' with rfl | hm'
      · exact absurd hex hwrites
      · exact ⟨m', hm', hex⟩

/-- In the order of a numbering an index reads the byte of the last move that writes it, and zero if there is none. -/
theorem copyMoves_range_read (move : Nat → Nat × Nat) (n a : Nat) :
    (∃ k < n, ∃ i, WritesAt len size (move k) i a
        ∧ (copyMoves len src size ((List.range n).map move) []).read a = src.read ((move k).1 + i)
        ∧ ∀ k' < n, ∀ i', WritesAt len size (move k') i' a → k' ≤ k)
    ∨ ((∀ k < n, ∀ i, ¬ WritesAt len size (move k) i a)
        ∧ (copyMoves len src size ((List.range n).map move) []).read a = 0#8) := by
  induction n with
  | zero => exact .inr ⟨fun k hk => absurd hk (Nat.not_lt_zero k), rfl⟩
  | succ n ih =>
    have hwf := copyMoves_wf (len := len) (src := src) (size := size) ((List.range n).map move) (dst := []) rfl
    rw [List.range_succ, List.map_append, List.map_singleton, copyMoves_snoc]
    by_cases hlast : ∃ i, WritesAt len size (move n) i a
    · obtain ⟨i, hi⟩ := hlast
      exact .inl ⟨n, Nat.lt_succ_self n, i, hi, elemCopy_read_of_writesAt hwf hi,
        fun k' hk' _ _ => Nat.le_of_lt_succ hk'⟩
    · have hnone := not_exists.mp hlast
      rw [elemCopy_read_of_not_writesAt hwf hnone]
      refine ih.imp (fun ⟨k, hk, i, hi, hread, hmax⟩ => ⟨k, Nat.lt_succ_of_lt hk, i, hi, hread, fun k' hk' i' hi' => ?_⟩)
        (fun ⟨hno, hread⟩ => ⟨fun k hk => ?_, hread⟩)
      · rcases Nat.lt_succ_iff_lt_or_eq.mp hk' with hlt | rfl
        · exact hmax k' hlt i' hi'
        · exact absurd hi' (hnone i')
      · rcases Nat.lt_succ_iff_lt_or_eq.mp hk with hlt | rfl
        · exact hno k hlt
        · exact hnone

end

/-! ## The walk -/

/-- `f` gives the tiled offset of every element of the extent that has a byte: an unspecified offset occurs for elements
without one only (R227). -/
def Plan.MapsTo (p : Plan) (f : Nat → Nat → Nat) : Prop :=
  ∀ x y, p.inside x y → tiledOffset p x y = .value (f x y)
    ∨ (tiledOffset p x y = .unspecified ∧ p.elementSize = 0)

/-- The offset an element is read from. -/
def Direction.source (dir : Direction) (linear tiled : Nat → Nat → Nat) : Nat → Nat → Nat :=
  match dir with
  | .toTiled => linear
  | .toLinear => tiled

/-- The offset an element is written to. -/
def Direction.dest (dir : Direction) (linear tiled : Nat → Nat → Nat) : Nat → Nat → Nat :=
  match dir with
  | .toTiled => tiled
  | .toLinear => linear

/-- The move of element number `k` of a row-major walk over rows of `w` elements (R30). -/
def walkMove (w : Nat) (sa da : Nat → Nat → Nat) (k : Nat) : Nat × Nat := (sa (k % w) (k / w), da (k % w) (k / w))

section
variable {w : Nat} {sa da : Nat → Nat → Nat}

/-- The element in row `y` and column `x` has number `x + y * w`. -/
theorem walkMove_number {x : Nat} (hx : x < w) (y : Nat) : walkMove w sa da (x + y * w) = (sa x y, da x y) := by
  rw [walkMove, Nat.add_mul_mod_self_right, Nat.mod_eq_of_lt hx, Nat.add_mul_div_right _ _ (by omega),
    Nat.div_eq_of_lt hx, Nat.zero_add]

theorem number_lt {h x y : Nat} (hx : x < w) (hy : y < h) : x + y * w < w * h := by
  have hrow : (y + 1) * w ≤ h * w := Nat.mul_le_mul_right w hy
  rw [Nat.add_mul, Nat.one_mul] at hrow
  rw [Nat.mul_comm w]
  omega

/-- Numbers are in scan order. -/
theorem number_le_iff_scan_order {x y k : Nat} (hx : x < w) :
    x + y * w ≤ k ↔ y < k / w ∨ (y = k / w ∧ x ≤ k % w) := by
  have hw : 0 < w := by omega
  have hk := Nat.mod_add_div' k w
  have hmod := Nat.mod_lt k hw
  constructor
  · intro hle
    have hrow : y ≤ k / w := (Nat.le_div_iff_mul_le hw).mpr (by omega)
    rcases Nat.lt_or_eq_of_le hrow with hlt | rfl
    · exact .inl hlt
    · exact .inr ⟨rfl, by omega⟩
  · rintro (hlt | ⟨rfl, hle⟩)
    · have hrow : (y + 1) * w ≤ k / w * w := Nat.mul_le_mul_right w hlt
      rw [Nat.add_mul, Nat.one_mul] at hrow
      omega
    · omega

end

/-- The walk's bytes, by position in the extent. -/
theorem lastWrite_walk (w h size len : Nat) (sa da : Nat → Nat → Nat) (src : Memory) (a : Nat) :
    Expected.lastWrite w h size len sa da src
      (copyMoves len src size ((List.range (w * h)).map (walkMove w sa da)) []) a := by
  rcases copyMoves_range_read (len := len) (size := size) (src := src) (walkMove w sa da) (w * h) a with
    ⟨k, hk, i, ⟨hi, hsrc, hdst, ha⟩, hbyte, hmax⟩ | ⟨hno, hzero⟩
  · have hw : 0 < w := Nat.pos_of_ne_zero fun h0 => by simp [h0] at hk
    refine .inl ⟨k % w, k / w, i, Nat.mod_lt k hw, Nat.div_lt_of_lt_mul hk, hi, hsrc, hdst, ha, hbyte,
      fun x y j hx hy hj hsrcj hdstj => (number_le_iff_scan_order hx).mp (hmax _ (number_lt hx hy) j ?_)⟩
    rw [walkMove_number hx]
    exact ⟨hj, hsrcj, hdstj, ha⟩
  · refine .inr ⟨fun x y i hx hy hi hsrc ha hdst => hno _ (number_lt hx hy) i ?_, hzero⟩
    rw [walkMove_number hx]
    exact ⟨hi, hsrc, hdst, ha⟩

section
variable {dir : Direction} {p : Plan} {len : Nat} {src : Memory} {f : Nat → Nat → Nat}

/-- An element of the extent is one element copy. -/
theorem copyElement_of_mapsTo (hmap : p.MapsTo f) {c : Scan} (hin : p.inside c.x c.y) (dst : Memory) :
    copyElement dir p len src c dst = some (elemCopy len src (dir.source (linearOffset p) f c.x c.y)
      (dir.dest (linearOffset p) f c.x c.y) p.elementSize dst) := by
  rcases hmap c.x c.y hin with hvalue | ⟨hfree, hsize⟩
  · rw [copyElement, hvalue]
    cases dir <;> rfl
  · rw [copyElement, hfree, hsize]
    rfl

/-- The first `n` elements of the walk are the moves of their numbers. -/
theorem copyElements_of_mapsTo (hmap : p.MapsTo f) {n : Nat} (hn : n ≤ p.effWidth * p.effHeight) :
    copyElements dir p len src n { y := 0, x := 0 } []
      = some ({ y := n / p.effWidth, x := n % p.effWidth }, copyMoves len src p.elementSize
          ((List.range n).map
            (walkMove p.effWidth (dir.source (linearOffset p) f) (dir.dest (linearOffset p) f))) []) := by
  induction n with
  | zero => simp [copyElements, copyMoves]
  | succ n ih =>
    have hw : 0 < p.effWidth := Nat.pos_of_ne_zero fun h => by simp [h] at hn
    have hin : p.inside (n % p.effWidth) (n / p.effWidth) := ⟨Nat.mod_lt _ hw, Nat.div_lt_of_lt_mul (by omega)⟩
    rw [copyElements_add, ih (by omega), Option.bind_some, List.range_succ, List.map_append, List.map_singleton,
      copyMoves_snoc]
    simp only [copyElements, copyElement_of_mapsTo (c := { y := n / p.effWidth, x := n % p.effWidth }) hmap hin,
      scanNext_row_major hw]
    rfl

end

/-! ## A transform's outcome -/

section
variable {dir : Direction} {s : State} {f : Nat → Nat → Nat}

theorem planOf_eq (s : State) : planOf s = planUnder s.descTileMode s := rfl

theorem inside_planOf_iff {x y : Nat} :
    (planOf s).inside x y ↔ x < Expected.reqWidth s ∧ y < Expected.reqHeight s := by
  rw [Plan.inside, planOf_eq, planUnder_effWidth, planUnder_effHeight]

theorem linearOffset_planOf (s : State) : linearOffset (planOf s) = Expected.reqLinear s :=
  funext fun x => funext fun y => linearOffset_planUnder s s.descTileMode x y

/-- What a transform with tiled offsets `f` leaves in `DST`. -/
def walked (dir : Direction) (s : State) (f : Nat → Nat → Nat) : Memory :=
  copyMoves s.len s.src (Expected.reqBpp s / 8)
    ((List.range (Expected.reqWidth s * Expected.reqHeight s)).map
      (walkMove (Expected.reqWidth s) (dir.source (Expected.reqLinear s) f) (dir.dest (Expected.reqLinear s) f))) []

theorem walked_wf (dir : Direction) (s : State) (f : Nat → Nat → Nat) : (walked dir s f).wf = true :=
  copyMoves_wf _ rfl

/-- A transform whose elements have tiled offsets completes at the end of its walk. -/
theorem transform_of_mapsTo (hmap : (planOf s).MapsTo f) :
    transform dir s = .next (s.endTransform (walked dir s f)
      (Expected.reqWidth s * Expected.reqHeight s / Expected.reqWidth s)
      (Expected.reqWidth s * Expected.reqHeight s % Expected.reqWidth s)) := by
  refine transform_next_iff.mpr ⟨_, _, copyElements_of_mapsTo hmap (le_refl _), ?_⟩
  rw [linearOffset_planOf, planOf_eq, planUnder_effWidth, planUnder_effHeight, planUnder_elementSize]
  rfl

theorem walked_lastWrite (dir : Direction) (s : State) (f : Nat → Nat → Nat) (a : Nat) :
    Expected.lastWrite (Expected.reqWidth s) (Expected.reqHeight s) (Expected.reqBpp s / 8) s.len
      (dir.source (Expected.reqLinear s) f) (dir.dest (Expected.reqLinear s) f) s.src (walked dir s f) a :=
  lastWrite_walk _ _ _ _ _ _ _ _

end

end Sys2Proof.Machine
end

section
/-! What the transforms leave in `DST` (spec/46_surface_mapper.md section 3), and which meanings never complete
(spec/60_exceptions.md R247). -/

namespace Sys2Proof.Machine

/-! ## When the elements have offsets -/

/-- The value of a calculation that has one. -/
def Calc.valueOrZero : Calc → Nat
  | .value n => n
  | _ => 0

section
variable {s : State} {f : Nat → Nat → Nat}

/-- An element without a specified offset has no byte, bpp being 0 (R135, R227). -/
theorem elementSize_of_unspecified {x y : Nat} (h : tiledOffset (planOf s) x y = .unspecified) :
    (planOf s).elementSize = 0 := by
  obtain ⟨_, hbpp⟩ := tiledOffset_unspecified_iff.mp h
  rw [planOf_eq, planUnder_bpp] at hbpp
  rw [planOf_eq, planUnder_elementSize, hbpp]

/-- Elements whose offset is never without end are mapped. -/
theorem mapsTo_of_ne_neverEnds (h : ∀ x y, (planOf s).inside x y → tiledOffset (planOf s) x y ≠ .neverEnds) :
    (planOf s).MapsTo fun x y => (tiledOffset (planOf s) x y).valueOrZero := by
  intro x y hin
  have hne := h x y hin
  show tiledOffset (planOf s) x y = .value (tiledOffset (planOf s) x y).valueOrZero ∨ _
  cases hc : tiledOffset (planOf s) x y with
  | value n => exact .inl rfl
  | unspecified => exact .inr ⟨rfl, elementSize_of_unspecified hc⟩
  | neverEnds => exact absurd hc hne

/-- The operands of a transform on which no element's offset comes out (R247). -/
theorem tiledOffset_planOf_neverEnds_iff {x y : Nat} :
    tiledOffset (planOf s) x y = .neverEnds ↔
      bankSwapEligible s.descTileMode = true ∧ 0 < Expected.reqBpp s ∧ s.descPitch.toNat = 0 := by
  rw [tiledOffset_neverEnds_iff, planOf_eq, planUnder_bpp]
  rfl

/-- A transform's elements are mapped unless it hangs. -/
theorem exists_mapsTo (h : ¬ (bankSwapEligible s.descTileMode = true ∧ 0 < Expected.reqBpp s ∧ s.descPitch.toNat = 0
    ∧ 0 < Expected.reqWidth s ∧ 0 < Expected.reqHeight s)) : ∃ f, (planOf s).MapsTo f := by
  refine ⟨_, mapsTo_of_ne_neverEnds fun x y hin hhang => h ?_⟩
  obtain ⟨hx, hy⟩ := inside_planOf_iff.mp hin
  obtain ⟨he, hbpp, hpitch⟩ := tiledOffset_planOf_neverEnds_iff.mp hhang
  exact ⟨he, hbpp, hpitch, by omega, by omega⟩

theorem reqWidth_lt (s : State) : Expected.reqWidth s < 2 ^ 32 := by
  have hlt := s.descWidth.isLt
  rw [Expected.reqWidth]
  split <;> omega

theorem reqHeight_lt (s : State) : Expected.reqHeight s < 2 ^ 32 := by
  have hlt := s.descHeight.isLt
  rw [Expected.reqHeight]
  split <;> omega

/-- MAP.ELEM at each element of the extent gives the transform's offsets; a free value is no offset, but its element has
no byte. -/
theorem mapsTo_of_mapElem (h : ∀ x y, x < Expected.reqWidth s → y < Expected.reqHeight s →
    ∃ u, exec .mapElem { s with oprX := BitVec.ofNat 32 x, oprY := BitVec.ofNat 32 y } = .next u
      ∧ u.resTiled = f x y) : (planOf s).MapsTo f := by
  intro x y hin
  obtain ⟨hx, hy⟩ := inside_planOf_iff.mp hin
  obtain ⟨u, hexec, hu⟩ := h x y hx hy
  have hxval : (BitVec.ofNat 32 x).toNat = x := Nat.mod_eq_of_lt (hx.trans (reqWidth_lt s))
  have hyval : (BitVec.ofNat 32 y).toNat = y := Nat.mod_eq_of_lt (hy.trans (reqHeight_lt s))
  have hdeliver := (mapElement_eq _ _).symm.trans hexec
  simp only [hxval, hyval] at hdeliver
  rcases deliver_next_iff.mp hdeliver with ⟨n, hvalue, rfl⟩ | ⟨hfree, -⟩
  · exact .inl (hu ▸ hvalue)
  · exact .inr ⟨hfree, elementSize_of_unspecified hfree⟩

end

/-! ## Completion -/

/-- The direction of each transform. -/
theorem exists_transform_of_mem {i : Instr} (h : i ∈ [Instr.xformSwz, .xformDswz]) :
    ∃ dir, ∀ s, exec i s = transform dir s := by
  rcases mem_xform_iff.mp h with rfl | rfl
  · exact ⟨.toTiled, fun _ => rfl⟩
  · exact ⟨.toLinear, fun _ => rfl⟩

/-- Where a walk of whole rows stops: below its last row, or at the start where a row has no element. -/
theorem walk_end (w h : Nat) : w * h % w = 0 ∧ w * h / w = if w = 0 then 0 else h := by
  refine ⟨Nat.mul_mod_right w h, ?_⟩
  by_cases hw : w = 0
  · simp [hw]
  · rw [if_neg hw, Nat.mul_div_cancel_left _ (Nat.pos_of_ne_zero hw)]

/-- Settles O39: outside the hang every element has an offset, and the walk ends after whole rows. -/
theorem transformsComplete : Obligations.TransformsComplete := by
  unfold Obligations.TransformsComplete
  intro s i hi hno
  obtain ⟨dir, hexec⟩ := exists_transform_of_mem hi
  obtain ⟨f, hmap⟩ := exists_mapsTo hno
  obtain ⟨hx, hy⟩ := walk_end (Expected.reqWidth s) (Expected.reqHeight s)
  refine ⟨walked dir s f, ?_⟩
  rw [hexec, transform_of_mapsTo hmap, hx, hy]
  by_cases hw : Expected.reqWidth s = 0
  · simp only [hw, if_true]
    rfl
  · simp only [hw, if_false]
    rfl

/-- Settles O40: the walk's bytes, from linear to tiled offsets. -/
theorem swizzleResult : Obligations.SwizzleResult := by
  unfold Obligations.SwizzleResult
  intro s f h
  exact ⟨_, transform_of_mapsTo (mapsTo_of_mapElem h), walked_lastWrite .toTiled s f⟩

/-- Settles O41: the walk's bytes, from tiled to linear offsets. -/
theorem deswizzleResult : Obligations.DeswizzleResult := by
  unfold Obligations.DeswizzleResult
  intro s f h
  exact ⟨_, transform_of_mapsTo (mapsTo_of_mapElem h), walked_lastWrite .toLinear s f⟩

/-- Settles O47: the wires of the request, `SRC` and `LEN` are all that the walk reads. -/
theorem transformDependsOnItsOperandsOnly : Obligations.TransformDependsOnItsOperandsOnly := by
  unfold Obligations.TransformDependsOnItsOperandsOnly
  intro s s' t hwidth hheight hformat htm hswizzle hpitch hrom hsrc hlen i hi h
  obtain ⟨dir, hexec⟩ := exists_transform_of_mem hi
  rw [hexec] at h ⊢
  have hplan : planOf s = planOf s' := by
    simp only [planOf, planUnder, hwidth, hheight, hformat, htm, hswizzle, hpitch, hrom]
  obtain ⟨c, d, hcopy, rfl⟩ := transform_next_iff.mp h
  rw [hplan, hsrc, hlen] at hcopy
  exact ⟨_, transform_next_iff.mpr ⟨c, d, hcopy, rfl⟩, rfl⟩

/-! ## Bytes of a walk -/

section
variable {w h size len : Nat} {sa da : Nat → Nat → Nat} {src dst : Memory} {a : Nat}

/-- An index that no element writes is zero. -/
theorem read_eq_zero_of_lastWrite (hlast : Expected.lastWrite w h size len sa da src dst a)
    (hno : ∀ x y i, x < w → y < h → i < size → sa x y + i < len → a < len → da x y + i ≠ a) : dst.read a = 0#8 := by
  rcases hlast with ⟨x, y, i, hx, hy, hi, hsrc, hdst, ha, _⟩ | ⟨_, hzero⟩
  · exact absurd hdst (hno x y i hx hy hi hsrc ha)
  · exact hzero

/-- An index that is written, and always with the same byte, reads it. -/
theorem read_eq_of_lastWrite {b : Byte} (hlast : Expected.lastWrite w h size len sa da src dst a)
    (hsome : ∃ x y i, x < w ∧ y < h ∧ i < size ∧ sa x y + i < len ∧ a < len ∧ da x y + i = a)
    (hagree : ∀ x y i, x < w → y < h → i < size → da x y + i = a → src.read (sa x y + i) = b) : dst.read a = b := by
  rcases hlast with ⟨x, y, i, hx, hy, hi, _, hdst, _, hread, _⟩ | ⟨hno, _⟩
  · exact hread.trans (hagree x y i hx hy hi hdst)
  · obtain ⟨x, y, i, hx, hy, hi, hsrc, ha, hdst⟩ := hsome
    exact absurd hdst (hno x y i hx hy hi hsrc ha)

/-- Ranges of `size` bytes at the offsets of distinct elements do not overlap. -/
def RangesDisjoint (w h size : Nat) (off : Nat → Nat → Nat) : Prop :=
  ∀ x y x' y', x < w → y < h → x' < w → y' < h → (x, y) ≠ (x', y') →
    off x y + size ≤ off x' y' ∨ off x' y' + size ≤ off x y

/-- A byte of disjoint ranges belongs to one element. -/
theorem RangesDisjoint.eq_of_byte_eq {off : Nat → Nat → Nat} (hd : RangesDisjoint w h size off) {x y i x' y' i' : Nat}
    (hx : x < w) (hy : y < h) (hi : i < size) (hx' : x' < w) (hy' : y' < h) (hi' : i' < size)
    (heq : off x y + i = off x' y' + i') : x = x' ∧ y = y' ∧ i = i' := by
  by_cases hsame : (x, y) = (x', y')
  · obtain ⟨rfl, rfl⟩ := Prod.mk.inj hsame
    exact ⟨rfl, rfl, by omega⟩
  · have hapart := hd x y x' y' hx hy hx' hy' hsame
    omega

/-- With disjoint destinations every byte of an element inside the buffer arrives. -/
theorem read_dest_of_lastWrite (hd : RangesDisjoint w h size da) {x y i : Nat} (hx : x < w) (hy : y < h) (hi : i < size)
    (hsrc : sa x y + i < len) (hdst : da x y + i < len)
    (hlast : Expected.lastWrite w h size len sa da src dst (da x y + i)) :
    dst.read (da x y + i) = src.read (sa x y + i) := by
  refine read_eq_of_lastWrite hlast ⟨x, y, i, hx, hy, hi, hsrc, hdst, rfl⟩ fun x' y' i' hx' hy' hi' heq => ?_
  obtain ⟨rfl, rfl, rfl⟩ := hd.eq_of_byte_eq hx' hy' hi' hx hy hi heq
  rfl

end

/-- Offsets of distinct numbers in row-major order are a whole element apart. -/
theorem linearRanges_disjoint {w h : Nat} (size : Nat) : RangesDisjoint w h size fun x y => (y * w + x) * size := by
  intro x y x' y' hx _ hx' _ hne
  have hnum : y * w + x ≠ y' * w + x' := fun heq => hne <| by
    obtain ⟨rfl, rfl⟩ := row_major_inj hx hx' (by omega : x + y * w = x' + y' * w)
    rfl
  have hapart : ∀ u u' : Nat, u < u' → u * size + size ≤ u' * size := fun u u' hlt => by
    have hmul := Nat.mul_le_mul_right size hlt
    rwa [Nat.succ_mul] at hmul
  exact (Nat.lt_or_gt_of_ne hnum).imp (hapart _ _) (hapart _ _)

theorem reqLinear_disjoint (s : State) :
    RangesDisjoint (Expected.reqWidth s) (Expected.reqHeight s) (Expected.reqBpp s / 8) (Expected.reqLinear s) :=
  linearRanges_disjoint _

/-- Settles O42: a request's linear offsets are row-major numbers times the element's size. -/
theorem linearRangesDisjoint : Obligations.LinearRangesDisjoint := by
  unfold Obligations.LinearRangesDisjoint
  exact fun p x y x' y' ⟨hx, hy⟩ ⟨hx', hy'⟩ hne =>
    linearRanges_disjoint (h := p.effHeight) p.elementSize x y x' y' hx hy hx' hy' hne

/-- Settles O43: with an empty extent or bpp 0 no element hangs, and no element has a byte to write. -/
theorem emptyExtentOrZeroBppGivesZeros : Obligations.EmptyExtentOrZeroBppGivesZeros := by
  unfold Obligations.EmptyExtentOrZeroBppGivesZeros
  intro s hempty i hi
  obtain ⟨dir, hexec⟩ := exists_transform_of_mem hi
  obtain ⟨f, hmap⟩ := exists_mapsTo (s := s) fun ⟨_, hbpp, _, hw, hh⟩ => by omega
  refine ⟨_, (hexec s).trans (transform_of_mapsTo hmap), fun a => ?_⟩
  exact read_eq_zero_of_lastWrite (walked_lastWrite dir s f a) fun x y i hx hy hi _ _ => by omega

/-- Every byte below the surface's size is a byte of an element's linear range. -/
theorem exists_reqLinear_byte {s : State} {a : Nat}
    (h : a < Expected.reqWidth s * Expected.reqHeight s * (Expected.reqBpp s / 8)) :
    ∃ x y i, x < Expected.reqWidth s ∧ y < Expected.reqHeight s ∧ i < Expected.reqBpp s / 8
      ∧ Expected.reqLinear s x y + i = a := by
  unfold Expected.reqLinear
  generalize Expected.reqBpp s / 8 = size at h ⊢
  generalize Expected.reqWidth s = w at h ⊢
  have hsize : 0 < size := Nat.pos_of_ne_zero fun h0 => by simp [h0] at h
  have hw : 0 < w := Nat.pos_of_ne_zero fun h0 => by simp [h0] at h
  have hnum : a / size < w * Expected.reqHeight s := Nat.div_lt_of_lt_mul (Nat.mul_comm size _ ▸ h)
  refine ⟨a / size % w, a / size / w, a % size, Nat.mod_lt _ hw, Nat.div_lt_of_lt_mul hnum, Nat.mod_lt _ hsize, ?_⟩
  rw [Nat.mul_comm (a / size / w), Nat.div_add_mod, Nat.mul_comm, Nat.div_add_mod]

/-- Settles O44: with the pitch equal to the width the two offsets of an element are the same. -/
theorem linearModeIsTheIdentity : Obligations.LinearModeIsTheIdentity := by
  unfold Obligations.LinearModeIsTheIdentity
  intro s htm hpitch hbpp
  have hmap : (planOf s).MapsTo (Expected.reqLinear s) := fun x y _ => by
    refine .inl ((tiledOffset_linear x y htm).trans (congrArg Calc.value ?_))
    rw [planOf_eq, planUnder_bpp, planUnder_pitch, hpitch, addrLinear, Expected.reqLinear,
      Nat.mul_div_assoc _ (Nat.dvd_of_mod_eq_zero hbpp)]
  refine ⟨_, transform_of_mapsTo hmap, fun a hlen ha => ?_⟩
  obtain ⟨x, y, i, hx, hy, hi, rfl⟩ := exists_reqLinear_byte ha
  exact read_dest_of_lastWrite (reqLinear_disjoint s) hx hy hi hlen hlen (walked_lastWrite .toTiled s _ _)

/-! ## Well-formed requests -/

section
variable {s : State}

/-- Each element of a well-formed request has an offset (R282). -/
theorem WellFormedRequest.exists_offsets (hreq : WellFormedRequest s) :
    ∃ f : Nat → Nat → Nat, ∀ x y, (planOf s).inside x y → tiledOffset (planOf s) x y = .value (f x y) := by
  refine ⟨fun x y => (tiledOffset (planOf s) x y).valueOrZero, fun x y hin => ?_⟩
  obtain ⟨t, ht, _⟩ := hreq.rangesInside x y hin
  exact ht.trans (congrArg Calc.value (congrArg Calc.valueOrZero ht).symm)

variable {f : Nat → Nat → Nat} (hreq : WellFormedRequest s)
  (hf : ∀ x y, (planOf s).inside x y → tiledOffset (planOf s) x y = .value (f x y))
include hreq hf

/-- Its ranges, tiled and linear, lie inside the buffer. -/
theorem WellFormedRequest.bytes_inside {x y i : Nat} (hx : x < Expected.reqWidth s) (hy : y < Expected.reqHeight s)
    (hi : i < Expected.reqBpp s / 8) : f x y + i < s.len ∧ Expected.reqLinear s x y + i < s.len := by
  have hin := inside_planOf_iff.mpr ⟨hx, hy⟩
  obtain ⟨t, ht, htiled, hlinear⟩ := hreq.rangesInside x y hin
  obtain rfl : f x y = t := Calc.value.inj ((hf x y hin).symm.trans ht)
  rw [linearOffset_planOf] at hlinear
  rw [planOf_eq, planUnder_elementSize] at htiled hlinear
  omega

/-- Its tiled ranges are disjoint. -/
theorem WellFormedRequest.tiled_disjoint :
    RangesDisjoint (Expected.reqWidth s) (Expected.reqHeight s) (Expected.reqBpp s / 8) f := by
  intro x y x' y' hx hy hx' hy' hne
  have hin := inside_planOf_iff.mpr ⟨hx, hy⟩
  have hin' := inside_planOf_iff.mpr ⟨hx', hy'⟩
  have hapart := hreq.rangesDisjoint x y x' y' _ _ hin hin' hne (hf x y hin) (hf x' y' hin')
  rwa [planOf_eq, planUnder_elementSize] at hapart

/-- Its swizzled image holds each byte of an element at the tiled offset. -/
theorem WellFormedRequest.read_swizzled {x y i : Nat} (hx : x < Expected.reqWidth s) (hy : y < Expected.reqHeight s)
    (hi : i < Expected.reqBpp s / 8) :
    (walked .toTiled s f).read (f x y + i) = s.src.read (Expected.reqLinear s x y + i) := by
  obtain ⟨htiled, hlinear⟩ := hreq.bytes_inside hf hx hy hi
  exact read_dest_of_lastWrite (hreq.tiled_disjoint hf) hx hy hi hlinear htiled (walked_lastWrite .toTiled s f _)

end

/-- The state between the two transforms of a round trip: the swizzled image is the source. -/
def swizzledState (s : State) (f : Nat → Nat → Nat) (y x : Nat) : State :=
  { s.endTransform (walked .toTiled s f) y x with src := walked .toTiled s f }

/-- The second walk of a round trip takes the swizzled image back to the linear offsets of the same request. -/
theorem unswizzled_lastWrite (s : State) (f : Nat → Nat → Nat) (y x a : Nat) :
    Expected.lastWrite (Expected.reqWidth s) (Expected.reqHeight s) (Expected.reqBpp s / 8) s.len f
      (Expected.reqLinear s) (walked .toTiled s f) (walked .toLinear (swizzledState s f y x) f) a :=
  walked_lastWrite .toLinear (swizzledState s f y x) f a

/-- Settles O45: each byte of an element goes to its tiled offset and back, and the second walk writes nothing else. -/
theorem roundTripRestoresTheSource : Obligations.RoundTripRestoresTheSource := by
  unfold Obligations.RoundTripRestoresTheSource
  intro s hreq
  obtain ⟨f, hf⟩ := hreq.exists_offsets
  have hmap : (planOf s).MapsTo f := fun x y hin => .inl (hf x y hin)
  have hback := unswizzled_lastWrite s f (Expected.reqWidth s * Expected.reqHeight s / Expected.reqWidth s)
    (Expected.reqWidth s * Expected.reqHeight s % Expected.reqWidth s)
  refine ⟨_, _, transform_of_mapsTo hmap, transform_of_mapsTo (s := swizzledState s f _ _) (dir := .toLinear) hmap, ?_⟩
  rw [endTransform_dst]
  have hbyte : ∀ x y i, x < Expected.reqWidth s → y < Expected.reqHeight s → i < Expected.reqBpp s / 8 →
      (walked .toLinear (swizzledState s f _ _) f).read (Expected.reqLinear s x y + i)
        = s.src.read (Expected.reqLinear s x y + i) := fun x y i hx hy hi => by
    obtain ⟨htiled, hlinear⟩ := hreq.bytes_inside hf hx hy hi
    exact (read_dest_of_lastWrite (reqLinear_disjoint s) hx hy hi htiled hlinear (hback _)).trans
      (hreq.read_swizzled hf hx hy hi)
  refine ⟨hbyte, fun a ha => ?elsewhere, fun hwf hlen => ?whole⟩
  case elsewhere =>
    exact read_eq_zero_of_lastWrite (hback a) fun x y i hx hy hi _ _ heq => ha x y i hx hy hi heq.symm
  case whole =>
    obtain ⟨hsrc, hbelow, -⟩ := State.wf_iff.mp hwf
    refine Memory.ext_of_wf (walked_wf _ _ _) hsrc fun a => ?_
    by_cases ha : a < s.len
    · obtain ⟨x, y, i, hx, hy, hi, rfl⟩ := exists_reqLinear_byte (hlen ▸ ha)
      exact hbyte x y i hx hy hi
    · rw [Memory.read_eq_zero_of_below hbelow (Nat.not_lt.mp ha)]
      exact read_eq_zero_of_lastWrite (hback a) fun _ _ _ _ _ _ _ hlt => absurd hlt ha

/-- The move of an element of XFORM.SWZ with tiled offsets `f`. -/
def swizzleMove (s : State) (f : Nat → Nat → Nat) (e : Nat × Nat) : Nat × Nat :=
  (Expected.reqLinear s e.1 e.2, f e.1 e.2)

section
variable {s : State} {f : Nat → Nat → Nat} (hreq : WellFormedRequest s)
  (hf : ∀ x y, (planOf s).inside x y → tiledOffset (planOf s) x y = .value (f x y))
  {order : List (Nat × Nat)} (horder : ∀ e : Nat × Nat, e ∈ order ↔ (planOf s).inside e.1 e.2)
include hreq hf horder

/-- In any order of the elements, each byte of an element goes to its tiled offset. -/
theorem read_copyMoves_order {x y i : Nat} (hx : x < Expected.reqWidth s) (hy : y < Expected.reqHeight s)
    (hi : i < Expected.reqBpp s / 8) :
    (copyMoves s.len s.src (Expected.reqBpp s / 8) (order.map (swizzleMove s f)) []).read (f x y + i)
      = s.src.read (Expected.reqLinear s x y + i) := by
  obtain ⟨htiled, hlinear⟩ := hreq.bytes_inside hf hx hy hi
  have hmem : (x, y) ∈ order := (horder (x, y)).mpr (inside_planOf_iff.mpr ⟨hx, hy⟩)
  refine copyMoves_read_of_agree rfl (fun m hm j hj => ?_)
    (.inl ⟨_, List.mem_map_of_mem hmem, i, hi, hlinear, rfl, htiled⟩)
  obtain ⟨⟨x', y'⟩, he, rfl⟩ := List.mem_map.mp hm
  obtain ⟨hx', hy'⟩ := inside_planOf_iff.mp ((horder _).mp he)
  obtain ⟨hj, -, heq, -⟩ := hj
  obtain ⟨rfl, rfl, rfl⟩ := (hreq.tiled_disjoint hf).eq_of_byte_eq hx' hy' hj hx hy hi heq
  rfl

/-- In any order of the elements the buffer is that of the walk. -/
theorem copyMoves_order_eq_walked :
    copyMoves s.len s.src (Expected.reqBpp s / 8) (order.map (swizzleMove s f)) [] = walked .toTiled s f := by
  refine Memory.ext_of_wf (copyMoves_wf _ rfl) (walked_wf _ _ _) fun a => ?_
  by_cases ha : ∃ x y i, x < Expected.reqWidth s ∧ y < Expected.reqHeight s ∧ i < Expected.reqBpp s / 8 ∧ f x y + i = a
  · obtain ⟨x, y, i, hx, hy, hi, rfl⟩ := ha
    rw [hreq.read_swizzled hf hx hy hi, read_copyMoves_order hreq hf horder hx hy hi]
  · rw [read_eq_zero_of_lastWrite (walked_lastWrite .toTiled s f a)
      fun x y i hx hy hi _ _ heq => ha ⟨x, y, i, hx, hy, hi, heq⟩]
    refine copyMoves_read_of_not_writesAt rfl fun m hm i hi => ?_
    obtain ⟨⟨x, y⟩, he, rfl⟩ := List.mem_map.mp hm
    obtain ⟨hx, hy⟩ := inside_planOf_iff.mp ((horder _).mp he)
    obtain ⟨hi, -, heq, -⟩ := hi
    exact ha ⟨x, y, i, hx, hy, hi, heq⟩

end

/-- Settles O46: disjoint copies write each byte once, so their order does not show. -/
theorem anyElementOrderGivesTheResult : Obligations.AnyElementOrderGivesTheResult := by
  unfold Obligations.AnyElementOrderGivesTheResult
  intro s t f order hreq hf _ horder hexec
  have hmap : (planOf s).MapsTo f := fun x y hin => .inl (hf x y hin)
  obtain rfl := Host.Outcome.next.inj ((transform_of_mapsTo (dir := .toTiled) hmap).symm.trans hexec)
  rw [endTransform_dst, ← copyMoves_order_eq_walked hreq hf horder, copyMoves, List.foldl_map, linearOffset_planOf,
    planOf_eq, planUnder_elementSize]
  rfl

/-! ## Meanings that never complete -/

/-- The operands on which a meaning never completes. -/
def Meaning.NeverEnds (m : Meaning) (s : State) : Prop :=
  match m with
  | .unit c => c = .neverEnds
  | .mapping tm => swapWidthHangs tm (Expected.reqBpp s) s.descPitch.toNat
  | .walk _ => swapWidthHangs s.descTileMode (Expected.reqBpp s) s.descPitch.toNat
      ∧ 0 < Expected.reqWidth s ∧ 0 < Expected.reqHeight s
  | .reserved _ => False

/-- A delivery completes unless its calculation never ends. -/
theorem deliver_completes_or_faults (put : Nat → State → State) (c : Calc) (s : State) :
    (c ≠ .neverEnds → ∃ t, deliver put c s = .next t)
    ∧ (c = .neverEnds → deliver put c s = .fault .swapWidthNeverEnds) := by
  cases c with
  | value n => exact ⟨fun _ => ⟨_, rfl⟩, fun h => by cases h⟩
  | unspecified => exact ⟨fun _ => ⟨_, rfl⟩, fun h => by cases h⟩
  | neverEnds => exact ⟨fun h => absurd rfl h, fun _ => rfl⟩

/-- A transform with an element whose offset never comes out stops at its first element. -/
theorem transform_of_hang {s : State} (dir : Direction)
    (hhang : swapWidthHangs s.descTileMode (Expected.reqBpp s) s.descPitch.toNat) (hw : 0 < Expected.reqWidth s)
    (hh : 0 < Expected.reqHeight s) : transform dir s = .fault .swapWidthNeverEnds := by
  have hnone : ∀ c dst, copyElement dir (planOf s) s.len s.src c dst = none := fun c dst => by
    rw [copyElement_none_iff, tiledOffset_neverEnds_iff, planOf_eq, planUnder_bpp]
    exact hhang
  obtain ⟨n, hn⟩ : ∃ n, (planOf s).effWidth * (planOf s).effHeight = n + 1 := by
    rw [planOf_eq, planUnder_effWidth, planUnder_effHeight]
    exact Nat.exists_eq_succ_of_ne_zero (Nat.mul_pos hw hh).ne'
  simp only [transform, hn, copyElements, hnone]

/-- Each meaning but a reserved operation's completes, or never ends and is named (log entry 7). -/
theorem run_completes_or_faults (m : Meaning) (s : State) :
    (¬ m.NeverEnds s → (∀ op, m ≠ .reserved op) → ∃ t, m.run s = .next t)
    ∧ (m.NeverEnds s → m.run s = .fault .swapWidthNeverEnds) := by
  cases m with
  | unit c =>
    obtain ⟨hcompletes, hfaults⟩ := deliver_completes_or_faults State.setValue c s
    exact ⟨fun h _ => hcompletes h, hfaults⟩
  | mapping tm =>
    have hiff : tiledOffset (planUnder tm s) s.oprX.toNat s.oprY.toNat = .neverEnds ↔ (Meaning.mapping tm).NeverEnds s := by
      rw [tiledOffset_neverEnds_iff, planUnder_bpp]
      rfl
    rw [Meaning.run, mapElement_eq]
    obtain ⟨hcompletes, hfaults⟩ := deliver_completes_or_faults
      (State.setMapped (Expected.reqLinear s s.oprX.toNat s.oprY.toNat) (Expected.reqBpp s / 8))
      (tiledOffset (planUnder tm s) s.oprX.toNat s.oprY.toNat) s
    exact ⟨fun h _ => hcompletes (mt hiff.mp h), fun h => hfaults (hiff.mpr h)⟩
  | walk dir =>
    refine ⟨fun h _ => ?_, fun ⟨hhang, hw, hh⟩ => transform_of_hang dir hhang hw hh⟩
    obtain ⟨f, hmap⟩ := exists_mapsTo (s := s) fun ⟨he, hb, hp, hw, hh⟩ => h ⟨⟨he, hb, hp⟩, hw, hh⟩
    exact ⟨_, transform_of_mapsTo hmap⟩
  | reserved op => exact ⟨fun _ h => absurd rfl (h op), fun h => h.elim⟩

/-- R247's starts, instruction by instruction. -/
theorem hangs_iff_neverEnds (i : Instr) (s : State) : Expected.hangs i s ↔ (meaningOf i s).NeverEnds s := by
  cases i
  case tmBsww =>
    rw [meaningOf, Meaning.NeverEnds, bankSwapWidth_neverEnds_iff]
    simp only [Expected.hangs, swapWidthHangs]
    tauto
  case addrMacro =>
    rw [meaningOf, Meaning.NeverEnds, addrMacro_neverEnds_iff]
    simp only [Expected.hangs, swapWidthHangs]
    tauto
  case mapElem | xformSwz | xformDswz =>
    simp only [Expected.hangs, meaningOf, Meaning.NeverEnds, swapWidthHangs]
    tauto
  case tm8 | tm9 | tm10 | tm11 | tm14 | tm15 =>
    simp [Expected.hangs, meaningOf, Meaning.NeverEnds, swapWidthHangs, encode, bankSwapEligible, bankSwappedCodes,
      and_comm]
  all_goals simp [Expected.hangs, meaningOf, Meaning.NeverEnds, swapWidthHangs, encode, bankSwapEligible, bankSwappedCodes]

/-- The reserved instructions alone have a reserved meaning. -/
theorem eq_reserved_of_meaningOf {i : Instr} {s : State} {op : BitVec 4} (h : meaningOf i s = .reserved op) :
    i = .opReserved14 ∨ i = .opReserved15 := by
  cases i <;> simp_all [meaningOf]

/-- Settles O48: by the kind of the instruction's meaning. -/
theorem everyMeaningCompletesOrIsNamed : Obligations.EveryMeaningCompletesOrIsNamed := by
  unfold Obligations.EveryMeaningCompletesOrIsNamed
  intro i s
  obtain ⟨hcompletes, hfaults⟩ := run_completes_or_faults (meaningOf i s) s
  rw [exec_eq_run, hangs_iff_neverEnds]
  refine ⟨fun h h14 h15 => hcompletes h fun op hop => ?_, hfaults⟩
  exact (eq_reserved_of_meaningOf hop).elim h14 h15

end Sys2Proof.Machine
end
